-- ==== Sys2Proof/Word.lean ====
section
/-! DEFINITION. The plain word types of the CORE (00_scope.md R9, R18): every value is an unsigned bit vector whose
bit 0 is the least significant bit. -/

namespace Sys2Proof

/-- An event word, a configuration word or an action descriptor (30_encoding.md R80, R81, R100). -/
abbrev Word := BitVec 32

/-- A byte: a character code, an inbound byte, a byte of an answer-back sequence (00_scope.md R18). -/
abbrev Byte := BitVec 8

/-- A 15-bit direct-key mask: bit i belongs to key index i + 1 (00_scope.md R16, 20_memory.md R62). -/
abbrev KeyMask := BitVec 15

end Sys2Proof
end

