-- ==== Sys2Proof/Config.lean ====
section
/-! DEFINITION. The configuration record (10_state.md R30 to R51), its packed words (30_encoding.md R95), the names of the
configuration checks (70_reset_and_hazards.md R293), the reference parameters (00_scope.md R7) and the one value the spec
leaves undefined. What is computed from a configuration stands in Machine/Operands.lean and Machine/Boot.lean. -/

namespace Sys2Proof

/-- A pin level: low, high or undriven (10_state.md R28). -/
inductive PinLevel where
  | L | H | Z
deriving DecidableEq, Repr, Inhabited

/-- `cfg.parityMode` (10_state.md R32). Code 3 is reserved and has no constructor: the packed form that holds it is
rejected (Machine/Boot.lean). -/
inductive ParityMode where
  | none | even | odd
deriving DecidableEq, Repr

/-- `cfg.dkMode` (10_state.md R35): where the direct-key bus is sampled. -/
inductive DkMode where
  | off | strobe | poll
deriving DecidableEq, Repr

/-- `cfg.bellMode` (10_state.md R41). Tone, code 3, has no constructor: it is rejected at configuration. -/
inductive BellMode where
  | none | activeLow | activeHigh
deriving DecidableEq, Repr

/-- `cfg.raMode` (10_state.md R43, 44_handshake.md R230). -/
inductive RaMode where
  | none | hostFollow | keyAck
deriving DecidableEq, Repr

/-- `cfg.raPolarity` (10_state.md R44). -/
inductive Polarity where
  | activeLow | activeHigh
deriving DecidableEq, Repr

/-- `cfg.strobeEdge` (10_state.md R49). -/
inductive Edge where
  | falling | rising
deriving DecidableEq, Repr

/-- The implementation parameters the spec leaves OPEN (00_scope.md R7). -/
structure Params where
  /-- `N`, the queue slot count. -/
  n : Nat
  /-- `TW`, the width in bits of the Time Base and of every stored time. -/
  tw : Nat
  /-- `time0`, the Time Base value at reset. -/
  time0 : Nat
  /-- `escByte`, the escape byte. -/
  escByte : Byte
  /-- `ABMAX`, the longest answer-back sequence. -/
  abMax : Nat
deriving DecidableEq, Repr

/-- The configuration record `cfg` (10_state.md R30 to R50) with the parameters of 00_scope.md R7. -/
structure Config where
  par : Params
  /-- R31 -/
  charMask : Byte
  /-- R32 -/
  parityMode : ParityMode
  /-- R33 -/
  invert : Bool
  /-- R34: 0 disables the direct keys, 1 to 15 enables them -/
  dkCount : Nat
  /-- R35 -/
  dkMode : DkMode
  /-- R36 -/
  dkInvertMask : KeyMask
  /-- R37 -/
  dkReservedMask : KeyMask
  /-- R38: milliseconds, a TW-bit number -/
  debounceWindow : Nat
  /-- R39 -/
  escMask : KeyMask
  /-- R40 -/
  escSelector : Option Byte
  /-- R41 -/
  bellMode : BellMode
  /-- R42: read by no rule -/
  bellDuration : Nat
  /-- R43 -/
  raMode : RaMode
  /-- R44 -/
  raPolarity : Polarity
  /-- R45: read by no rule -/
  raDuration : Nat
  /-- R46: milliseconds, a TW-bit number -/
  raDelay : Nat
  /-- R47: `AB[0]`, the ENQ response -/
  ab0 : List Byte
  /-- R47: `AB[1]` -/
  ab1 : List Byte
  /-- R47: `AB[2]` -/
  ab2 : List Byte
  /-- R48: the descriptor words of key indices 1, 2, ...; an index past the list is unbound and holds NoOp (log 15) -/
  action : List Word
  /-- R49 -/
  strobeEdge : Edge
  /-- R50: read by no rule -/
  charPullupMask : Byte
deriving DecidableEq, Repr

/-- The packed configuration words of 30_encoding.md R95. CFG3 and CFG4 are numbers of any width, of which bits TW-1 to 0
are the field; CFG5 is the two durations, in units the implementation chooses. -/
structure ConfigWords where
  par : Params
  cfg0 : Word
  cfg1 : Word
  cfg2 : Word
  cfg3 : Nat
  cfg4 : Nat
  bellDuration : Nat
  raDuration : Nat
  /-- ACT1 to ACT15 -/
  act : List Word
  ab0 : List Byte
  ab1 : List Byte
  ab2 : List Byte
deriving DecidableEq, Repr

/-- The nine checks of 70_reset_and_hazards.md R293, one name each, in the order of that list. -/
inductive ConfigCheck where
  | parityMode | dkCount | dkMode | dkReservedMask | bellMode | raMode | actionDescriptors | reservedBits | capacity
deriving DecidableEq, Repr

/-- ENQ, the control code that triggers the answer-back (00_scope.md R7; unaudited, R8). -/
def Config.enq : Byte := 0x05#8

/-- BEL, the control code that triggers the bell (00_scope.md R7; unaudited, R8). -/
def Config.bel : Byte := 0x07#8

/-- The reference values of the OPEN parameters (00_scope.md R7). N = 16 is the spec's; TW = 32, time0 = 0 and
escByte = 0x1B are its reference values; ABMAX has none: 255 is a DESIGN CHOICE (log 2, unsafe). -/
def Params.reference : Params :=
  { n := 16, tw := 32, time0 := 0, escByte := 0x1B#8, abMax := 255 }

/-- The baseline configuration C0 of 95_test_vectors.md section 0. The two durations, which C0 does not name and no rule
reads, are 0. DESIGN CHOICE (log 2, unsafe): it is the configuration of `State.reset`. -/
def Config.baseline : Config :=
  { par := Params.reference, charMask := 0x7F#8, parityMode := .none, invert := false,
    dkCount := 0, dkMode := .off, dkInvertMask := 0#15, dkReservedMask := 0#15, debounceWindow := 0,
    escMask := 0#15, escSelector := none,
    bellMode := .none, bellDuration := 0, raMode := .none, raPolarity := .activeLow, raDuration := 0, raDelay := 0,
    ab0 := [], ab1 := [], ab2 := [], action := List.replicate 15 0#32,
    strobeEdge := .falling, charPullupMask := 0#8 }

/-- The bell's inactive level when `bellMode = none`, which 44_handshake.md R231 leaves undefined ("defined only when
bellMode != none"): a free value, a fresh one for each count (log 7, safe). -/
opaque Config.undefinedBellLevel : Nat → PinLevel

end Sys2Proof
end

