-- ==== Sys2Proof/Syntax.lean ====
section
/-! DEFINITION. The instructions: one constructor of `Instr` per row of spec/opcode_table.json, ten event words
(30_encoding.md R83) and four action descriptors (R100). -/

namespace Sys2Proof

/-- One operation of the CORE. Operands are the fields of R84 to R88 and R101 to R104, with their widths. -/
inductive Instr where
  /-- STROBE: character-bus value `c`, raw direct-key bus level `k` (R84, R110). -/
  | strobe (c : Byte) (k : KeyMask)
  /-- TICK (R120). -/
  | tick
  /-- HOSTLINE: the reported host control-line state (R86, R240). -/
  | hostline (asserted : Bool)
  /-- RX_POLL: `v` says whether the transport returned a byte, `b` is that byte (R87, R140). -/
  | rxPoll (v : Bool) (b : Byte)
  /-- BELL_END (R245). -/
  | bellEnd
  /-- DRAIN_STEP (R145). -/
  | drainStep
  /-- ACTIVITY (R232). -/
  | activity
  /-- RA_END (R238). -/
  | raEnd
  /-- DK_POLL: the raw direct-key bus level `k` (R88, R160). -/
  | dkPoll (k : KeyMask)
  /-- RESET (R290). -/
  | reset
  /-- The NoOp action (R101, R210). -/
  | actNoop
  /-- The Break action (R102, R211). -/
  | actBreak
  /-- The Answerback action: `idx` names the sequence (R103, R212). -/
  | actAnswerback (idx : BitVec 2)
  /-- The EscapePrefix action (R104, R213). -/
  | actEscapeprefix (selPresent : Bool) (sel lit : Byte)
deriving DecidableEq, Repr

/-- The closed set of action variants a descriptor names (30_encoding.md R100). -/
inductive Action where
  | noop
  | brk
  | answerback (idx : BitVec 2)
  | escapePrefix (selPresent : Bool) (sel lit : Byte)
deriving DecidableEq, Repr

/-- The instruction an action variant is. -/
def Action.toInstr : Action → Instr
  | .noop => .actNoop
  | .brk => .actBreak
  | .answerback idx => .actAnswerback idx
  | .escapePrefix p sel lit => .actEscapeprefix p sel lit

/-- The two decoding spaces (30_encoding.md, introduction): event words come from the trace, action descriptors from the
configuration. -/
inductive Space where
  | eventWord | actionDescriptor
deriving DecidableEq, Repr

/-- The space an instruction belongs to (the `space` of its opcode-table row). -/
def Instr.space : Instr → Space
  | .strobe _ _ | .tick | .hostline _ | .rxPoll _ _ | .bellEnd | .drainStep | .activity | .raEnd | .dkPoll _
  | .reset => .eventWord
  | .actNoop | .actBreak | .actAnswerback _ | .actEscapeprefix _ _ _ => .actionDescriptor

/-- Who performs an operation (20_memory.md R67, 60_exceptions.md R270). -/
inductive Agent where
  | interrupt | cooperative | reinitialization
deriving DecidableEq, Repr

/-- The agent of an operation (30_encoding.md R83). The actions run inside cooperative operations (43_dispatch.md R214). -/
def Instr.agent : Instr → Agent
  | .strobe _ _ | .tick => .interrupt
  | .reset => .reinitialization
  | .hostline _ | .rxPoll _ _ | .bellEnd | .drainStep | .activity | .raEnd | .dkPoll _ => .cooperative
  | .actNoop | .actBreak | .actAnswerback _ | .actEscapeprefix _ _ _ => .cooperative

end Sys2Proof
end

