-- ==== Sys2Proof/WellFormed.lean ====
section
/-! DEFINITION. Which instruction terms spell an instruction: the conditions of 30_encoding.md R87, R103 and R104 that the
widths of the operands do not already give. -/

namespace Sys2Proof

/-- R87: when `v = 0`, `b` must be 0. -/
def rxOperandsOk (v : Bool) (b : Byte) : Bool := v || b == 0#8

/-- R103: `idx = 3` is reserved. -/
def answerbackIndexOk (idx : BitVec 2) : Bool := idx != 3#2

/-- R104: `sel` must be 0 when `selPresent = 0`. -/
def selectorOk (selPresent : Bool) (sel : Byte) : Bool := selPresent || sel == 0#8

/-- Well-formed action variants (R101 to R104). -/
def Action.wf : Action → Bool
  | .noop => true
  | .brk => true
  | .answerback idx => answerbackIndexOk idx
  | .escapePrefix p sel _ => selectorOk p sel

/-- Well-formed instructions (R84 to R91, R101 to R104). -/
def Instr.wf : Instr → Bool
  | .strobe _ _ => true
  | .tick => true
  | .hostline _ => true
  | .rxPoll v b => rxOperandsOk v b
  | .bellEnd => true
  | .drainStep => true
  | .activity => true
  | .raEnd => true
  | .dkPoll _ => true
  | .reset => true
  | .actNoop => true
  | .actBreak => true
  | .actAnswerback idx => answerbackIndexOk idx
  | .actEscapeprefix p sel _ => selectorOk p sel

end Sys2Proof
end

