-- ==== Sys2Proof/Decode.lean ====
section
/-! DEFINITION. The decoder of both spaces, total on every 32-bit word and rejecting by name (30_encoding.md R81 to R91,
R100 to R105), and the encoder written from the same tables. -/

namespace Sys2Proof

/-- Why a word spells no operation (30_encoding.md R91) or no action (R105). -/
inductive Rejection where
  /-- `op` in 0x0, 0xA to 0xE (R91). -/
  | reservedOpcode
  /-- A reserved bit is set (R91, R101 to R104). -/
  | reservedBits
  /-- An RX_POLL word with `v = 0` and `b != 0` (R91). -/
  | byteWithoutValid
  /-- Answerback `idx = 3` (R103). -/
  | answerbackIndex
  /-- EscapePrefix with `sel != 0` and `selPresent = 0` (R104). -/
  | selectorWithoutFlag
deriving DecidableEq, Repr

/-- `w[hi:lo]` of R9 as a field of `len` bits from bit `lo` up; every operand is such a field as it stands (R89). -/
def field (w : Word) (lo len : Nat) : BitVec len := w.extractLsb' lo len

/-- `answer` if the reserved payload field is zero, else the rejection R91 names. -/
def whenReservedClear {len : Nat} {α : Type} (reserved : BitVec len) (answer : Except Rejection α) : Except Rejection α :=
  if reserved = 0#len then answer else .error .reservedBits

/-- The event word's operation (R81 to R91): `op` in bits 31 to 28 selects the format, whose reserved bits must be 0. -/
def decodeEvent (w : Word) : Except Rejection Instr :=
  let op := field w 28 4
  if op = 0x1#4 then whenReservedClear (field w 23 5) (.ok (.strobe (field w 0 8) (field w 8 15)))
  else if op = 0x2#4 then whenReservedClear (field w 0 28) (.ok .tick)
  else if op = 0x3#4 then whenReservedClear (field w 1 27) (.ok (.hostline (w.getLsbD 0)))
  else if op = 0x4#4 then
    whenReservedClear (field w 9 19)
      (if rxOperandsOk (w.getLsbD 8) (field w 0 8) then .ok (.rxPoll (w.getLsbD 8) (field w 0 8))
       else .error .byteWithoutValid)
  else if op = 0x5#4 then whenReservedClear (field w 0 28) (.ok .bellEnd)
  else if op = 0x6#4 then whenReservedClear (field w 0 28) (.ok .drainStep)
  else if op = 0x7#4 then whenReservedClear (field w 0 28) (.ok .activity)
  else if op = 0x8#4 then whenReservedClear (field w 0 28) (.ok .raEnd)
  else if op = 0x9#4 then whenReservedClear (field w 15 13) (.ok (.dkPoll (field w 0 15)))
  else if op = 0xF#4 then whenReservedClear (field w 0 28) (.ok .reset)
  else .error .reservedOpcode

/-- The descriptor word's action (R100 to R105): `kind` in bits 1 to 0. -/
def decodeAction (w : Word) : Except Rejection Action :=
  let kind := field w 0 2
  if kind = 0#2 then whenReservedClear (field w 2 30) (.ok .noop)
  else if kind = 1#2 then whenReservedClear (field w 2 30) (.ok .brk)
  else if kind = 2#2 then
    whenReservedClear (field w 4 28)
      (if answerbackIndexOk (field w 2 2) then .ok (.answerback (field w 2 2)) else .error .answerbackIndex)
  else
    whenReservedClear (field w 2 2) <| whenReservedClear (field w 5 3) <| whenReservedClear (field w 24 8)
      (if selectorOk (w.getLsbD 4) (field w 8 8) then
        .ok (.escapePrefix (w.getLsbD 4) (field w 8 8) (field w 16 8))
       else .error .selectorWithoutFlag)

/-- Decoding in the named space. -/
def decode : Space → Word → Except Rejection Instr
  | .eventWord, w => decodeEvent w
  | .actionDescriptor, w => (decodeAction w).map Action.toInstr

/-- A field's bits at their place in a word, every other bit 0 (00_scope.md R9). -/
def place {len : Nat} (value : BitVec len) (lo : Nat) : Word := value.setWidth 32 <<< lo

/-- The word of an instruction, laid out by R82 to R88 and R101 to R104; reserved bits are 0. -/
def encode : Instr → Word
  | .strobe c k => place 0x1#4 28 ||| place k 8 ||| place c 0
  | .tick => place 0x2#4 28
  | .hostline s => place 0x3#4 28 ||| place (BitVec.ofBool s) 0
  | .rxPoll v b => place 0x4#4 28 ||| place (BitVec.ofBool v) 8 ||| place b 0
  | .bellEnd => place 0x5#4 28
  | .drainStep => place 0x6#4 28
  | .activity => place 0x7#4 28
  | .raEnd => place 0x8#4 28
  | .dkPoll k => place 0x9#4 28 ||| place k 0
  | .reset => place 0xF#4 28
  | .actNoop => place 0#2 0
  | .actBreak => place 1#2 0
  | .actAnswerback idx => place idx 2 ||| place 2#2 0
  | .actEscapeprefix p sel lit => place lit 16 ||| place sel 8 ||| place (BitVec.ofBool p) 4 ||| place 3#2 0

/-- The mask `m` of an instruction's row: its op and reserved bits (30_encoding.md R90; spec/opcode_table.json for the
descriptors). -/
def Instr.tableMask : Instr → Word
  | .strobe _ _ => 0xFF800000#32
  | .hostline _ => 0xFFFFFFFE#32
  | .rxPoll _ _ => 0xFFFFFE00#32
  | .dkPoll _ => 0xFFFF8000#32
  | .tick | .bellEnd | .drainStep | .activity | .raEnd | .reset => 0xFFFFFFFF#32
  | .actNoop | .actBreak => 0xFFFFFFFF#32
  | .actAnswerback _ => 0xFFFFFFF3#32
  | .actEscapeprefix _ _ _ => 0xFF0000EF#32

/-- The match `p` of an instruction's row (30_encoding.md R90; spec/opcode_table.json for the descriptors). -/
def Instr.tableMatch : Instr → Word
  | .strobe _ _ => 0x10000000#32
  | .tick => 0x20000000#32
  | .hostline _ => 0x30000000#32
  | .rxPoll _ _ => 0x40000000#32
  | .bellEnd => 0x50000000#32
  | .drainStep => 0x60000000#32
  | .activity => 0x70000000#32
  | .raEnd => 0x80000000#32
  | .dkPoll _ => 0x90000000#32
  | .reset => 0xF0000000#32
  | .actNoop => 0x00000000#32
  | .actBreak => 0x00000001#32
  | .actAnswerback _ => 0x00000002#32
  | .actEscapeprefix _ _ _ => 0x00000003#32

/-- The 32-bit word whose bits below `nbits` are those of `w` and whose bits from `nbits` up are 0; none if a bit above
the word's 32 is left. -/
def tableWord (nbits w : Nat) : Option Word :=
  let v := w % 2 ^ nbits
  if v < 2 ^ 32 then some (BitVec.ofNat 32 v) else none

/-- The instruction the decoder reads from a table word: an event word, or, where `op` is the reserved 0 of the event
space, an action descriptor. No word decodes in both spaces, since a descriptor has bits 31 to 24 clear. -/
def decodeTableWord (nbits w : Nat) : Option Instr :=
  match tableWord nbits w with
  | none => none
  | some word =>
    match decode .eventWord word with
    | .ok i => some i
    | .error _ => (decode .actionDescriptor word).toOption

end Sys2Proof
end

