-- ==== Sys2Proof/Machine/Operands.lean ====
section
/-! DEFINITION. What is computed from operands and the configuration alone: the key mask and sample (10_state.md R51,
40_capture_queue.md R112), the parity check and the output transform (41_drain_task.md R143, R144), the level names
(44_handshake.md R231), elapsed time (00_scope.md R11), the answer-back and action tables (10_state.md R47, R48) and the
configuration checks on the record (70_reset_and_hazards.md R293). -/

namespace Sys2Proof.Machine

/-- `lowbits(n) = 2^n - 1` within 15 bits (00_scope.md R10). -/
def lowbits (n : Nat) : KeyMask := BitVec.ofNat 15 (2 ^ n - 1)

/-- `popcount(v)` of a 15-bit mask (00_scope.md R10). -/
def popcount (v : KeyMask) : Nat := (List.range 15).countP fun i => v.getLsbD i

/-- `parity8(v)`, the XOR of the eight bits (00_scope.md R10, 41_drain_task.md R143). -/
def parity8 (v : Byte) : Bool :=
  v.getLsbD 0 ^^ v.getLsbD 1 ^^ v.getLsbD 2 ^^ v.getLsbD 3 ^^ v.getLsbD 4 ^^ v.getLsbD 5 ^^ v.getLsbD 6 ^^ v.getLsbD 7

/-- The derived `dkMask` (10_state.md R51). -/
def dkMask (c : Config) : KeyMask := lowbits c.dkCount &&& ~~~c.dkReservedMask

/-- `DkSample(k)` (40_capture_queue.md R112). -/
def dkSample (c : Config) (k : KeyMask) : KeyMask := (k ^^^ c.dkInvertMask) &&& dkMask c

/-- `ParityOK(c)` on the raw captured byte (41_drain_task.md R143). -/
def parityOK (c : Config) (ch : Byte) : Bool :=
  match c.parityMode with
  | .none => true
  | .even => parity8 ch == false
  | .odd => parity8 ch == true

/-- `Xform(c)`: inversion before the mask (41_drain_task.md R144). -/
def xform (c : Config) (ch : Byte) : Byte := (if c.invert then ~~~ch else ch) &&& c.charMask

/-- `raActive` (44_handshake.md R231). -/
def raActive (c : Config) : PinLevel :=
  match c.raPolarity with
  | .activeHigh => .H
  | .activeLow => .L

/-- `raInactive` (44_handshake.md R231). -/
def raInactive (c : Config) : PinLevel :=
  match c.raPolarity with
  | .activeHigh => .L
  | .activeLow => .H

/-- `bellActive`, defined only when `bellMode != none` (44_handshake.md R231): `none` here says undefined. -/
def bellActive (c : Config) : Option PinLevel :=
  match c.bellMode with
  | .none => none
  | .activeLow => some .L
  | .activeHigh => some .H

/-- `bellInactive`, defined only when `bellMode != none` (44_handshake.md R231): `none` here says undefined. -/
def bellInactive (c : Config) : Option PinLevel :=
  match c.bellMode with
  | .none => none
  | .activeLow => some .H
  | .activeHigh => some .L

/-- The reset level of `bellPin`: `Z` in mode none, else the inactive level (10_state.md R28). -/
def bellResetLevel (c : Config) : PinLevel := (bellInactive c).getD .Z

/-- The reset level of `raPin`: `Z` in mode none, else the inactive level (10_state.md R28). -/
def raResetLevel (c : Config) : PinLevel :=
  match c.raMode with
  | .none => .Z
  | .hostFollow => raInactive c
  | .keyAck => raInactive c

/-- `2^TW`, the modulus of every time (00_scope.md R7, R11). -/
def timeModulus (c : Config) : Nat := 2 ^ c.par.tw

/-- `Elapsed(t) = (Now() - t) mod 2^TW` (00_scope.md R11). -/
def elapsed (c : Config) (now t : Nat) : Nat := (now + (timeModulus c - t % timeModulus c)) % timeModulus c

/-- `cfg.AB[idx]` (10_state.md R47). The reserved index 3 names no sequence (30_encoding.md R103); the configuration check
keeps it out of the action table, and the meaning of ACT_ANSWERBACK stops on it (log 14). -/
def answerback (c : Config) (idx : BitVec 2) : List Byte :=
  if idx = 0#2 then c.ab0 else if idx = 1#2 then c.ab1 else if idx = 2#2 then c.ab2 else []

/-- The descriptor word of key index `i + 1` (10_state.md R48); an unbound index holds NoOp, the word 0 (log 15). -/
def actionWord (c : Config) (i : Nat) : Word := c.action.getD i 0#32

/-- The action bound to key index `i + 1`. "Configuration rejects any malformed descriptor, so Act meets only these four
kinds" (43_dispatch.md R203): the second arm is met by no operation, since every operation is admitted only under a
configuration whose descriptors all decode. -/
def actionOf (c : Config) (i : Nat) : Action :=
  match decodeAction (actionWord c i) with
  | .ok a => a
  | .error _ => .noop

/-- Check 2 of R293. -/
def dkCountOk (c : Config) : Bool := decide (c.dkCount ≤ 15)

/-- Check 3 of R293: `dkMode = off` if and only if `dkCount = 0`. -/
def dkModeOk (c : Config) : Bool := (c.dkMode == .off) == (c.dkCount == 0)

/-- Check 4 of R293: at most one bit, and that bit below `dkCount`. -/
def dkReservedMaskOk (c : Config) : Bool :=
  decide (popcount c.dkReservedMask ≤ 1) && (c.dkReservedMask &&& ~~~lowbits c.dkCount) == 0#15

/-- A well-formed descriptor word (30_encoding.md R101 to R105). -/
def descriptorOk (w : Word) : Bool :=
  match decodeAction w with
  | .ok _ => true
  | .error _ => false

/-- Check 7 of R293. -/
def actionsOk (c : Config) : Bool := c.action.all descriptorOk

/-- Check 9 of R293. -/
def capacityOk (c : Config) : Bool :=
  decide (2 ≤ c.par.n) &&
    (decide (c.ab0.length ≤ c.par.abMax) && decide (c.ab1.length ≤ c.par.abMax) && decide (c.ab2.length ≤ c.par.abMax))

/-- The first check of R293 that the record fails, if any. Checks 1, 5, 6 and 8 are about codes and reserved bits, which the
record form cannot hold; Machine/Boot.lean makes them on the packed form (log 9). -/
def failedCheck (c : Config) : Option ConfigCheck :=
  if !dkCountOk c then some .dkCount
  else if !dkModeOk c then some .dkMode
  else if !dkReservedMaskOk c then some .dkReservedMask
  else if !actionsOk c then some .actionDescriptors
  else if !capacityOk c then some .capacity
  else none

/-- The times of the record fit their TW bits (10_state.md R26, R38, R46). It is the width of the fields, not a check: a
record that breaks it is no configuration of a TW-bit CORE (log 6). -/
def timesFit (c : Config) : Bool :=
  decide (c.par.time0 < timeModulus c) && (decide (c.debounceWindow < timeModulus c) && decide (c.raDelay < timeModulus c))

end Sys2Proof.Machine
end

