-- ==== Sys2Proof/Machine/State.lean ====
section
/-! DEFINITION. The CORE's state (10_state.md R20 to R29, R53 to R57) as plain data, the outcomes of a step, and the state
after reset (70_reset_and_hazards.md R291, R292). -/

namespace Sys2Proof.Machine

/-- A captured entry (10_state.md R21). -/
structure Entry where
  charCode : Byte
  directKeys : Option KeyMask
deriving DecidableEq, Repr

/-- The slot space (10_state.md R22, 20_memory.md R60): the cells that hold an entry, by index, indices strictly rising.
A cell that is not listed is `empty-cell`. -/
abbrev Memory := List (Nat × Entry)

/-- The cooperative sequencer (10_state.md R25). -/
inductive Phase where
  | idle | bellWait | drain | act | raWait | dkPoll
deriving DecidableEq, Repr

/-- The output events (00_scope.md R12). -/
inductive OutEvent where
  | tx (b : Byte)
  | ctrl (x : Bool)
  | bell (l : PinLevel)
  | ra (l : PinLevel)
  | ind (x : Bool)
deriving DecidableEq, Repr

/-- The debounce state `db` (10_state.md R54). -/
structure DebounceState where
  candidate : KeyMask
  candidateStart : Nat
  inProgress : Bool
deriving DecidableEq, Repr

/-- The handshake state `hs` (10_state.md R55). -/
structure HandshakeState where
  pending : Bool
  lastSendTime : Nat
deriving DecidableEq, Repr

/-- Why a step stops with a fault: the block did something the spec calls undefined (00_scope.md R13). -/
inductive Fault where
  /-- Code 0x10 (60_exceptions.md R261): raised by `remove()` on an empty queue (40_capture_queue.md R117). Safe: no
  operation reaches it, and a fault refutes every claim. -/
  | removeOnEmpty
  /-- Raised by a read of an `empty-cell` (10_state.md R22). Safe: no run reaches it. -/
  | emptyCell
  /-- Raised by an access to a slot index at or above N, which 00_scope.md R11 says does not exist. Safe: no run reaches it
  (20_memory.md R63; log 8). -/
  | slotOutOfRange
deriving DecidableEq, Repr

/-- Why a step is refused: the trace is ill-formed, or the configuration is rejected (00_scope.md R13, R264). -/
inductive Refusal where
  /-- Raised by `exec`'s arm for an instruction that has no meaning yet. Safe. No arm raises it. -/
  | notModelled (mnemonic : String)
  /-- Code 0x20: raised by `step` on a word that spells no operation (30_encoding.md R91). Safe. -/
  | illegalEncoding
  /-- Code 0x21: raised by a cooperative operation outside its phase (30_encoding.md R92). Safe. -/
  | outOfPhase
  /-- Code 0x03: raised by every operation under a configuration that fails the named check ("no operation is admitted",
  70_reset_and_hazards.md R293), and by ACT_ANSWERBACK with the reserved index 3 (30_encoding.md R103). Safe. -/
  | unsupportedConfiguration (check : ConfigCheck)
  /-- Raised by `step` when the environment has delivered every word of the trace: no operation is left to perform. The
  model's own (log 3). Safe. -/
  | endOfTrace
deriving DecidableEq, Repr

/-- The state record `st` (10_state.md R20), the configuration it runs under (R30, log 1), and three fields of the model's
own (logs 3, 4 and 7). -/
structure State where
  /-- `cfg` (R30): written by no operation. -/
  cfg : Config
  /-- `slot[0..N-1]` (R22). -/
  slot : Memory
  /-- `in`, the producer index (R23). -/
  inIdx : Nat
  /-- `out`, the consumer index (R24). -/
  outIdx : Nat
  /-- `time`, the Time Base (R26). -/
  time : Nat
  /-- `phase` (R25). -/
  phase : Phase
  /-- `sent` (R29). -/
  sent : Bool
  /-- `ind` (R27). -/
  ind : Bool
  /-- `bellPin` (R28). -/
  bellPin : PinLevel
  /-- `raPin` (R28). -/
  raPin : PinLevel
  /-- `st.outv`, the output trace, oldest event first (R29). -/
  outv : List OutEvent
  /-- `dkPrev` (R53). -/
  dkPrev : KeyMask
  /-- `db` (R54). -/
  db : DebounceState
  /-- `hs` (R55). -/
  hs : HandshakeState
  /-- `ovf`, the overflow counter (R56). -/
  ovf : BitVec 32
  /-- `fault` (R57). -/
  fault : Option Fault
  /-- The model's own: the event words the environment has still to deliver (R80, log 3). -/
  trace : List Word
  /-- The model's own: the operand `pressed` of the key action being run (R203, log 4). -/
  actPressed : Bool
  /-- The model's own: the index of the next free value (log 7). -/
  freeCount : Nat
deriving DecidableEq, Repr

/-- What an operation answers. -/
abbrev Result := Host.Outcome State Fault Refusal

/-- The power-up state of a configuration (70_reset_and_hazards.md R291, R292). -/
def State.powerUp (c : Config) : State :=
  { cfg := c, slot := [], inIdx := 0, outIdx := 0, time := c.par.time0, phase := .idle, sent := false, ind := false,
    bellPin := bellResetLevel c, raPin := raResetLevel c, outv := [], dkPrev := 0#15,
    db := { candidate := 0#15, candidateStart := 0, inProgress := false },
    hs := { pending := false, lastSendTime := 0 }, ovf := 0#32, fault := none,
    trace := [], actPressed := false, freeCount := 0 }

/-- The machine right after reset, under the baseline configuration (logs 2 and 3). -/
def State.reset : State := State.powerUp Config.baseline

end Sys2Proof.Machine
end

