-- ==== Sys2Proof/Machine/Flags.lean ====
section
/-! DEFINITION. The status predicates the operations test (10_state.md R58): the queue's `isEmpty`, `isFull` and count, and
which phase admits an operation (30_encoding.md R92). The CORE has no condition codes (R58). -/

namespace Sys2Proof.Machine

/-- `N` of the running configuration (00_scope.md R7). -/
def slotCount (s : State) : Nat := s.cfg.par.n

/-- `isEmpty()` (40_capture_queue.md R115). -/
def isEmpty (s : State) : Bool := s.inIdx == s.outIdx

/-- `isFull()` (40_capture_queue.md R115). -/
def isFull (s : State) : Bool := (s.inIdx + 1) % slotCount s == s.outIdx

/-- `count = (in - out) mod N` (40_capture_queue.md R118). -/
def queueCount (s : State) : Nat := (s.inIdx + slotCount s - s.outIdx) % slotCount s

/-- Where an operation may be taken: in every phase, or in one (30_encoding.md R92, 10_state.md R25). -/
inductive Admission where
  | always
  | only (p : Phase)
deriving DecidableEq, Repr

/-- The phase test of an admission. -/
def phaseAdmits (a : Admission) (p : Phase) : Bool :=
  match a with
  | .always => true
  | .only q => p == q

/-- Where each operation is admitted (30_encoding.md R92). An action runs whenever the dispatcher calls it, in the middle of
a DRAIN_STEP or a DK_POLL (43_dispatch.md R214), so no phase test applies to it. -/
def admissionOf : Instr → Admission
  | .strobe _ _ => .always
  | .tick => .always
  | .hostline _ => .only .idle
  | .rxPoll _ _ => .only .idle
  | .bellEnd => .only .bellWait
  | .drainStep => .only .drain
  | .activity => .only .act
  | .raEnd => .only .raWait
  | .dkPoll _ => .only .dkPoll
  | .reset => .always
  | .actNoop => .always
  | .actBreak => .always
  | .actAnswerback _ => .always
  | .actEscapeprefix _ _ _ => .always

end Sys2Proof.Machine
end

