-- ==== Sys2Proof/Machine/Ops.lean ====
section
/-! DEFINITION. The shared operations: the slot space, output and sequencer primitives (00_scope.md R11 to R13), the queue
(40_capture_queue.md R116, R117), the entry's output (41_drain_task.md R146), the debounce filter (42_debounce.md R180), the
actions and the dispatcher (43_dispatch.md R200 to R213), the pulses (44_handshake.md R237, R244), and admission
(30_encoding.md R92, 70_reset_and_hazards.md R293). The CORE has no trap to take and none to return from (60_exceptions.md
R260, R269); `raise Fault` (00_scope.md R13) is the one shared stop. -/

namespace Sys2Proof.Machine

/-! ### The slot space -/

/-- The cell at index `a`: `none` is `empty-cell`. -/
def Memory.find (m : Memory) (a : Nat) : Option Entry :=
  match m with
  | [] => none
  | (b, e) :: rest => if a = b then some e else Memory.find rest a

/-- The slot space with entry `e` in cell `a`, indices kept rising. -/
def Memory.store (m : Memory) (a : Nat) (e : Entry) : Memory :=
  match m with
  | [] => [(a, e)]
  | (b, f) :: rest =>
    if a < b then (a, e) :: (b, f) :: rest
    else if a = b then (a, e) :: rest
    else (b, f) :: Memory.store rest a e

/-- The canonical form: indices strictly rising. An empty cell is never listed, since a listed cell holds an entry. -/
def Memory.wf (m : Memory) : Bool :=
  match m with
  | [] => true
  | (a, _) :: rest => rest.all (fun p => decide (a < p.1)) && Memory.wf rest

/-- The 24 bits of a slot (20_memory.md R61): `charCode` in bits 7 to 0, presence in bit 8, the mask in bits 23 to 9. -/
def packEntry (e : Entry) : BitVec 24 :=
  match e.directKeys with
  | none => e.charCode.setWidth 24
  | some k => k.setWidth 24 <<< 9 ||| 1#24 <<< 8 ||| e.charCode.setWidth 24

/-- The entry that 24 slot bits hold (20_memory.md R61). -/
def unpackEntry (b : BitVec 24) : Entry :=
  { charCode := b.extractLsb' 0 8, directKeys := if b.getLsbD 8 then some (b.extractLsb' 9 15) else none }

/-- A fault with the state it leaves (`st.fault` set, 10_state.md R57). A step that ends so answers the fault itself. -/
abbrev Faulted := Fault × State

/-- `raise Fault(reason)` (00_scope.md R13): it records the reason, for good. -/
def raiseFault {α : Type} (f : Fault) (s : State) : Except Faulted α := .error (f, { s with fault := some f })

/-- `MemRead(i, 1)` (00_scope.md R11): a read of `empty-cell` faults (10_state.md R22). -/
def memRead (i : Nat) (s : State) : Except Faulted Entry :=
  if i < slotCount s then
    match Memory.find s.slot i with
    | some e => .ok e
    | none => raiseFault .emptyCell s
  else raiseFault .slotOutOfRange s

/-- `MemWrite(i, 1, e)` (00_scope.md R11). -/
def memWrite (i : Nat) (e : Entry) (s : State) : Except Faulted State :=
  if i < slotCount s then .ok { s with slot := Memory.store s.slot i e } else raiseFault .slotOutOfRange s

/-! ### Output, pins and the sequencer -/

/-- `Emit(o)` (00_scope.md R12). -/
def emit (o : OutEvent) (s : State) : State := { s with outv := s.outv ++ [o] }

/-- `TXS(seq)`: first byte first (00_scope.md R12, 20_memory.md R62). -/
def txs (seq : List Byte) (s : State) : State := { s with outv := s.outv ++ seq.map OutEvent.tx }

/-- `phase <- p` (00_scope.md R13). -/
def goPhase (p : Phase) (s : State) : State := { s with phase := p }

/-- The ready/ack pin goes to a level, with its event. -/
def driveRa (l : PinLevel) (s : State) : State := emit (.ra l) { s with raPin := l }

/-- The bell pin goes to a level, with its event. -/
def driveBell (l : PinLevel) (s : State) : State := emit (.bell l) { s with bellPin := l }

/-- `RaOn()` (44_handshake.md R237). -/
def raOn (s : State) : State := driveRa (raActive s.cfg) s

/-- A bell level: the defined one, or a free value where 44_handshake.md R231 leaves it undefined (log 7). -/
def driveBellTo (level : Option PinLevel) (s : State) : State :=
  match level with
  | some l => driveBell l s
  | none => driveBell (Config.undefinedBellLevel s.freeCount) { s with freeCount := s.freeCount + 1 }

/-- `BellOn()` (44_handshake.md R244). -/
def bellOn (s : State) : State := driveBellTo (bellActive s.cfg) s

/-! ### The capture queue -/

/-- What `add` did (40_capture_queue.md R116). -/
inductive AddResult where
  | stored | dropped
deriving DecidableEq, Repr

/-- `add(e)` (40_capture_queue.md R116): the slot first, then the index. -/
def add (e : Entry) (s : State) : Except Faulted (AddResult × State) :=
  if isFull s then .ok (.dropped, s)
  else
    match memWrite s.inIdx e s with
    | .error f => .error f
    | .ok s1 => .ok (.stored, { s1 with inIdx := (s1.inIdx + 1) % slotCount s1 })

/-- `remove()` (40_capture_queue.md R117): the slot read first, then the index. -/
def remove (s : State) : Except Faulted (Entry × State) :=
  if isEmpty s then raiseFault .removeOnEmpty s
  else
    match memRead s.outIdx s with
    | .error f => .error f
    | .ok e => .ok (e, { s with outIdx := (s.outIdx + 1) % slotCount s })

/-- The entry a STROBE captures: a direct-key sample in strobe mode only (40_capture_queue.md R110). -/
def captureEntry (c : Config) (ch : Byte) (k : KeyMask) : Entry :=
  { charCode := ch,
    directKeys :=
      match c.dkMode with
      | .strobe => some (dkSample c k)
      | .off => none
      | .poll => none }

/-- The escape test of `EmitChar` (41_drain_task.md R146). -/
def escaped (c : Config) (dk : Option KeyMask) : Bool :=
  match dk with
  | none => false
  | some k => c.escMask != 0#15 && (k &&& c.escMask) != 0#15

/-- `EmitChar(y, dk)` (41_drain_task.md R146): escape byte, selector byte if any, character. -/
def emitChar (y : Byte) (dk : Option KeyMask) (s : State) : State :=
  if escaped s.cfg dk then
    let s1 := emit (.tx s.cfg.par.escByte) s
    let s2 :=
      match s.cfg.escSelector with
      | some b => emit (.tx b) s1
      | none => s1
    emit (.tx y) s2
  else emit (.tx y) s

/-! ### The debounce filter -/

/-- `Debounce(x)` (42_debounce.md R180), with the state it leaves. -/
def debounce (x : KeyMask) (s : State) : Option KeyMask × State :=
  if s.cfg.debounceWindow = 0 then (some x, s)
  else if x ≠ s.db.candidate then
    (none, { s with db := { candidate := x, candidateStart := s.time, inProgress := true } })
  else if s.db.inProgress ∧ elapsed s.cfg s.time s.db.candidateStart > s.cfg.debounceWindow then
    (some s.db.candidate, { s with db := { s.db with inProgress := false } })
  else (none, s)

/-! ### The actions and the dispatcher -/

/-- `ActNoOp(pressed)` (43_dispatch.md R210). -/
def actNoOp (s : State) : State := s

/-- `ActBreak(pressed)` (43_dispatch.md R211). -/
def actBreak (s : State) : State :=
  let s1 := emit (.ctrl s.actPressed) s
  emit (.ind s.actPressed) { s1 with ind := s.actPressed }

/-- `ActAnswerback(idx, pressed)` (43_dispatch.md R212): press only. -/
def actAnswerback (idx : BitVec 2) (s : State) : State :=
  if s.actPressed then txs (answerback s.cfg idx) s else s

/-- `ActEscape(selPresent, sel, lit, pressed)` (43_dispatch.md R213): press only. -/
def actEscape (selPresent : Bool) (sel lit : Byte) (s : State) : State :=
  if s.actPressed then
    let s1 := emit (.tx s.cfg.par.escByte) s
    let s2 := if selPresent then emit (.tx sel) s1 else s1
    emit (.tx lit) s2
  else s

/-- The effect of an action variant, its operand `pressed` taken from the state (43_dispatch.md R203). -/
def runAction (a : Action) (s : State) : State :=
  match a with
  | .noop => actNoOp s
  | .brk => actBreak s
  | .answerback idx => actAnswerback idx s
  | .escapePrefix p sel lit => actEscape p sel lit s

/-- `Act(d, pressed)` (43_dispatch.md R203): the operand is put where the action reads it, and put back after. -/
def act (a : Action) (pressed : Bool) (s : State) : State :=
  { runAction a { s with actPressed := pressed } with actPressed := s.actPressed }

/-- One turn of `Dispatch`'s loop: key index `i + 1` (43_dispatch.md R200). -/
def dispatchKey (diff new : KeyMask) (s : State) (i : Nat) : State :=
  if diff.getLsbD i then act (actionOf s.cfg i) (new.getLsbD i) s else s

/-- `Dispatch(new)` (43_dispatch.md R200): low to high, then `dkPrev`. -/
def dispatch (new : KeyMask) (s : State) : State :=
  { (List.range 15).foldl (dispatchKey (s.dkPrev ^^^ new) new) s with dkPrev := new }

/-! ### Admission -/

/-- An operation is admitted under a configuration that passes its checks (70_reset_and_hazards.md R293) and in a phase that
admits it (30_encoding.md R92); else it is refused and the state is unchanged. -/
def admitted (a : Admission) (s : State) (effect : State → Result) : Result :=
  match failedCheck s.cfg with
  | some c => .refused (.unsupportedConfiguration c)
  | none => if phaseAdmits a s.phase then effect s else .refused .outOfPhase

/-- An operation's answer from one that may raise a fault. -/
def orFault {α : Type} (r : Except Faulted α) (effect : α → Result) : Result :=
  match r with
  | .error f => .fault f.1
  | .ok a => effect a

end Sys2Proof.Machine
end

