-- ==== Sys2Proof/Machine/Actions.lean ====
section
/-! DEFINITION. The four key actions as instructions (43_dispatch.md R210 to R213): `Act(d, pressed)` of one descriptor, with
`pressed` the operand the state holds. The dispatcher runs these same effects inside DRAIN_STEP and DK_POLL (log 4). -/

namespace Sys2Proof.Machine

/-- ACT_NOOP (43_dispatch.md R210). -/
def execActNoop (s : State) : Result := admitted .always s fun s => .next (actNoOp s)

/-- ACT_BREAK (43_dispatch.md R211). -/
def execActBreak (s : State) : Result := admitted .always s fun s => .next (actBreak s)

/-- ACT_ANSWERBACK (43_dispatch.md R212). The index 3 "is reserved and rejects the configuration" (30_encoding.md R103). -/
def execActAnswerback (idx : BitVec 2) (s : State) : Result :=
  admitted .always s fun s =>
    if answerbackIndexOk idx then .next (actAnswerback idx s)
    else .refused (.unsupportedConfiguration .actionDescriptors)

/-- ACT_ESCAPEPREFIX (43_dispatch.md R213). -/
def execActEscapeprefix (selPresent : Bool) (sel lit : Byte) (s : State) : Result :=
  admitted .always s fun s => .next (actEscape selPresent sel lit s)

end Sys2Proof.Machine
end

