-- ==== Sys2Proof/Machine/Capture.lean ====
section
/-! DEFINITION. The interrupt operations: STROBE and TICK (40_capture_queue.md R110, R120). -/

namespace Sys2Proof.Machine

/-- STROBE (40_capture_queue.md R110): sample, enqueue, and count a drop. -/
def execStrobe (c : Byte) (k : KeyMask) (s : State) : Result :=
  admitted .always s fun s =>
    orFault (add (captureEntry s.cfg c k) s) fun r =>
      match r.1 with
      | .stored => .next r.2
      | .dropped => .next { r.2 with ovf := r.2.ovf + 1#32 }

/-- TICK (40_capture_queue.md R120). -/
def execTick (s : State) : Result :=
  admitted .always s fun s => .next { s with time := (s.time + 1) % timeModulus s.cfg }

end Sys2Proof.Machine
end

