-- ==== Sys2Proof/Machine/Drain.lean ====
section
/-! DEFINITION. The Drain Task's own operations: RX_POLL, DRAIN_STEP and DK_POLL (41_drain_task.md R140, R145, R160). -/

namespace Sys2Proof.Machine

/-- RX_POLL (41_drain_task.md R140): a new cycle, the ENQ answer-back, the BEL pulse. -/
def execRxPoll (v : Bool) (b : Byte) (s : State) : Result :=
  admitted (.only .idle) s fun s =>
    let s1 := { s with sent := false }
    let s2 := if v ∧ b = Config.enq then txs s1.cfg.ab0 s1 else s1
    if v ∧ b = Config.bel ∧ s2.cfg.bellMode ≠ .none then .next (goPhase .bellWait (bellOn s2))
    else .next (goPhase .drain s2)

/-- DRAIN_STEP on a removed entry (41_drain_task.md R145, R147): dispatch, parity, transform and output, `sent`. -/
def drainEntry (e : Entry) (s : State) : State :=
  let s1 :=
    match e.directKeys with
    | some k => dispatch k s
    | none => s
  if parityOK s1.cfg e.charCode then
    { emitChar (xform s1.cfg e.charCode) e.directKeys s1 with sent := true }
  else s1

/-- DRAIN_STEP (41_drain_task.md R145). -/
def execDrainStep (s : State) : Result :=
  admitted (.only .drain) s fun s =>
    if isEmpty s then .next (goPhase .act s)
    else orFault (remove s) fun r => .next (drainEntry r.1 r.2)

/-- DK_POLL (41_drain_task.md R160). -/
def execDkPoll (k : KeyMask) (s : State) : Result :=
  admitted (.only .dkPoll) s fun s =>
    match s.cfg.dkMode with
    | .off => .next (goPhase .idle s)
    | .strobe => .next (goPhase .idle s)
    | .poll =>
      match debounce (dkSample s.cfg k) s with
      | (some v, s1) => .next (goPhase .idle (dispatch v s1))
      | (none, s1) => .next (goPhase .idle s1)

end Sys2Proof.Machine
end

