-- ==== Sys2Proof/Machine/Handshake.lean ====
section
/-! DEFINITION. The Handshake Controller and the bell's end: ACTIVITY, RA_END, HOSTLINE, BELL_END (44_handshake.md R232,
R238, R240, R245). -/

namespace Sys2Proof.Machine

/-- ACTIVITY (44_handshake.md R232): none and host-follow do nothing, immediate key-ack pulses when the cycle sent, delayed
key-ack records a send or fires the pending pulse. -/
def execActivity (s : State) : Result :=
  admitted (.only .act) s fun s =>
    if s.cfg.raMode ≠ .keyAck then .next (goPhase .dkPoll s)
    else if s.cfg.raDelay = 0 then
      if s.sent then .next (goPhase .raWait (raOn s)) else .next (goPhase .dkPoll s)
    else if s.sent then
      .next (goPhase .dkPoll { s with hs := { pending := true, lastSendTime := s.time } })
    else if s.hs.pending ∧ elapsed s.cfg s.time s.hs.lastSendTime > s.cfg.raDelay then
      .next (goPhase .raWait (raOn { s with hs := { s.hs with pending := false } }))
    else .next (goPhase .dkPoll s)

/-- RA_END (44_handshake.md R238). -/
def execRaEnd (s : State) : Result :=
  admitted (.only .raWait) s fun s => .next (goPhase .dkPoll (driveRa (raInactive s.cfg) s))

/-- HOSTLINE (44_handshake.md R240): the ready/ack output mirrors the host's line in host-follow mode. -/
def execHostline (asserted : Bool) (s : State) : Result :=
  admitted (.only .idle) s fun s =>
    match s.cfg.raMode with
    | .hostFollow => .next (driveRa (if asserted then raActive s.cfg else raInactive s.cfg) s)
    | .none => .next s
    | .keyAck => .next s

/-- BELL_END (44_handshake.md R245). -/
def execBellEnd (s : State) : Result :=
  admitted (.only .bellWait) s fun s => .next (goPhase .drain (driveBellTo (bellInactive s.cfg) s))

end Sys2Proof.Machine
end

