-- ==== Sys2Proof/Machine/Reinit.lean ====
section
/-! DEFINITION. RESET, the full reinitialization (70_reset_and_hazards.md R290). -/

namespace Sys2Proof.Machine

/-- Every field at its reset value, the output trace, the fault mark and the configuration kept (70_reset_and_hazards.md
R290). The model's own fields are no part of the block and are kept. -/
def reinitialize (s : State) : State :=
  { State.powerUp s.cfg with
    outv := s.outv, fault := s.fault, trace := s.trace, actPressed := s.actPressed, freeCount := s.freeCount }

/-- The pin events of a RESET: a pin whose reset level differs from its old value, the bell first (R290). -/
def resetEvents (s : State) : List OutEvent :=
  (if bellResetLevel s.cfg ≠ s.bellPin then [.bell (bellResetLevel s.cfg)] else []) ++
    (if raResetLevel s.cfg ≠ s.raPin then [.ra (raResetLevel s.cfg)] else [])

/-- RESET (70_reset_and_hazards.md R290). -/
def execReset (s : State) : Result :=
  admitted .always s fun s => .next { reinitialize s with outv := s.outv ++ resetEvents s }

end Sys2Proof.Machine
end

