-- ==== Sys2Proof/Machine/Dispatch.lean ====
section
/-! DEFINITION. The meaning of every instruction, one arm per constructor. -/

namespace Sys2Proof.Machine

open Sys2Proof

def exec (i : Instr) (s : State) : Host.Outcome State Fault Refusal :=
  match i with
  | .strobe c k => Sys2Proof.Machine.execStrobe c k s
  | .tick => Sys2Proof.Machine.execTick s
  | .hostline asserted => Sys2Proof.Machine.execHostline asserted s
  | .rxPoll v b => Sys2Proof.Machine.execRxPoll v b s
  | .bellEnd => Sys2Proof.Machine.execBellEnd s
  | .drainStep => Sys2Proof.Machine.execDrainStep s
  | .activity => Sys2Proof.Machine.execActivity s
  | .raEnd => Sys2Proof.Machine.execRaEnd s
  | .dkPoll k => Sys2Proof.Machine.execDkPoll k s
  | .reset => Sys2Proof.Machine.execReset s
  | .actNoop => Sys2Proof.Machine.execActNoop s
  | .actBreak => Sys2Proof.Machine.execActBreak s
  | .actAnswerback idx => Sys2Proof.Machine.execActAnswerback idx s
  | .actEscapeprefix selPresent sel lit => Sys2Proof.Machine.execActEscapeprefix selPresent sel lit s

end Sys2Proof.Machine
end

