-- ==== Sys2Proof/Machine/Fetch.lean ====
section
/-! DEFINITION. Taking the next event word of the trace (30_encoding.md R80, R91), and placing a word where the next step
takes it (logs 3, 4 and 5). -/

namespace Sys2Proof.Machine

/-- The next operation and the state with its word delivered. A word that spells none is refused (30_encoding.md R91). -/
def fetch (s : State) : Except Refusal (Instr × State) :=
  match s.trace with
  | [] => .error .endOfTrace
  | w :: rest =>
    match decodeEvent w with
    | .error _ => .error .illegalEncoding
    | .ok i => .ok (i, { s with trace := rest })

/-- The phase that admits an operation, the current one where every phase does (30_encoding.md R92). -/
def admittingPhase (i : Instr) (p : Phase) : Phase :=
  match admissionOf i with
  | .always => p
  | .only q => q

/-- `w` as the next word of the trace, the sequencer where the operation `i` it spells is admitted (log 5). -/
def placeEvent (i : Instr) (w : Word) (s : State) : State :=
  { s with phase := admittingPhase i s.phase, trace := w :: s.trace }

/-- The descriptor `w` as the action of key index 1, and the next operation the DK_POLL that finds key 1 newly pressed: an
action runs inside a dispatch and nowhere else (43_dispatch.md R214; log 4). -/
def placeAction (w : Word) (s : State) : State :=
  { s with
    cfg := { s.cfg with dkCount := 1, dkMode := .poll, dkInvertMask := 0#15, dkReservedMask := 0#15, debounceWindow := 0,
                        action := w :: s.cfg.action.tail }
    dkPrev := 0#15
    phase := .dkPoll
    trace := encode (.dkPoll 1#15) :: s.trace }

/-- `w` where the next step runs it: an event word in the trace, a descriptor in the action table. A word that spells
neither goes into the trace, where the next step refuses it. -/
def placeWord (w : Word) (s : State) : State :=
  match decode .eventWord w with
  | .ok i => placeEvent i w s
  | .error _ => if descriptorOk w then placeAction w s else { s with trace := w :: s.trace }

end Sys2Proof.Machine
end

