-- ==== Sys2Proof/Machine/Step.lean ====
section
/-! DEFINITION. One step of the CORE: one operation of the trace (20_memory.md R67, 30_encoding.md R80). -/

namespace Sys2Proof.Machine

/-- Take the next event word and perform its operation. -/
def step (s : State) : Host.Outcome State Fault Refusal :=
  match fetch s with
  | .error r => .refused r
  | .ok (i, s1) => exec i s1

/-- `s` with the table word placed where the next step runs it (logs 3, 4 and 5); a number that is no 32-bit word changes
nothing. -/
def State.withFetchWord (s : State) (nbits w : Nat) : State :=
  match tableWord nbits w with
  | none => s
  | some word => placeWord word s

end Sys2Proof.Machine
end

