-- ==== Sys2Proof/Machine/Boot.lean ====
section
/-! DEFINITION. Configuration before operation: the packed words (30_encoding.md R95), the checks that reject them
(70_reset_and_hazards.md R293), and the boot order (R294). -/

namespace Sys2Proof.Machine

/-- The codes of `parityMode` (10_state.md R32). -/
def parityModeOfCode (code : BitVec 2) : Option ParityMode :=
  if code = 0#2 then some .none else if code = 1#2 then some .even else if code = 2#2 then some .odd else none

/-- The codes of `dkMode` (10_state.md R35). -/
def dkModeOfCode (code : BitVec 2) : Option DkMode :=
  if code = 0#2 then some .off else if code = 1#2 then some .strobe else if code = 2#2 then some .poll else none

/-- The codes of `bellMode` (10_state.md R41): code 3, tone, is rejected. -/
def bellModeOfCode (code : BitVec 2) : Option BellMode :=
  if code = 0#2 then some .none else if code = 1#2 then some .activeLow else if code = 2#2 then some .activeHigh else none

/-- The codes of `raMode` (10_state.md R43). -/
def raModeOfCode (code : BitVec 2) : Option RaMode :=
  if code = 0#2 then some .none else if code = 1#2 then some .hostFollow else if code = 2#2 then some .keyAck else none

/-- Check 8 of R293: the reserved bits of CFG1 and CFG2, and the selector byte of CFG0 where it is not present. -/
def reservedBitsClear (w : ConfigWords) : Bool :=
  field w.cfg1 30 2 == 0#2 && (field w.cfg2 23 9 == 0#9 && (w.cfg0.getLsbD 23 || field w.cfg0 24 8 == 0#8))

/-- The record that packed words spell (R95), or the check a code or a reserved bit fails. -/
def recordOfWords (w : ConfigWords) : Except ConfigCheck Config :=
  match parityModeOfCode (field w.cfg0 8 2) with
  | none => .error .parityMode
  | some parity =>
    match dkModeOfCode (field w.cfg0 15 2) with
    | none => .error .dkMode
    | some dk =>
      match bellModeOfCode (field w.cfg0 17 2) with
      | none => .error .bellMode
      | some bell =>
        match raModeOfCode (field w.cfg0 19 2) with
        | none => .error .raMode
        | some ra =>
          if reservedBitsClear w then
            .ok
              { par := w.par
                charMask := field w.cfg0 0 8
                parityMode := parity
                invert := w.cfg0.getLsbD 10
                dkCount := (field w.cfg0 11 4).toNat
                dkMode := dk
                dkInvertMask := field w.cfg1 0 15
                dkReservedMask := field w.cfg1 15 15
                debounceWindow := w.cfg3 % 2 ^ w.par.tw
                escMask := field w.cfg2 0 15
                escSelector := if w.cfg0.getLsbD 23 then some (field w.cfg0 24 8) else none
                bellMode := bell
                bellDuration := w.bellDuration
                raMode := ra
                raPolarity := if w.cfg0.getLsbD 21 then .activeHigh else .activeLow
                raDuration := w.raDuration
                raDelay := w.cfg4 % 2 ^ w.par.tw
                ab0 := w.ab0
                ab1 := w.ab1
                ab2 := w.ab2
                action := w.act.take 15
                strobeEdge := if w.cfg0.getLsbD 22 then .rising else .falling
                charPullupMask := field w.cfg2 15 8 }
          else .error .reservedBits

/-- The configuration check on packed words (R293): the record, or the failed check (60_exceptions.md R261 code 0x03). -/
def loadConfig (w : ConfigWords) : Except ConfigCheck Config :=
  match recordOfWords w with
  | .error c => .error c
  | .ok r =>
    match failedCheck r with
    | some c => .error c
    | none => .ok r

/-- Boot (70_reset_and_hazards.md R294): check, then the reset state. A rejected configuration creates no state
(60_exceptions.md R264). -/
def boot (w : ConfigWords) : Except ConfigCheck State :=
  match loadConfig w with
  | .error c => .error c
  | .ok c => .ok (State.powerUp c)

/-- The codes of the modes, for packing (R95). -/
def parityModeCode : ParityMode → BitVec 2
  | .none => 0#2
  | .even => 1#2
  | .odd => 2#2

/-- See `parityModeCode`. -/
def dkModeCode : DkMode → BitVec 2
  | .off => 0#2
  | .strobe => 1#2
  | .poll => 2#2

/-- See `parityModeCode`. -/
def bellModeCode : BellMode → BitVec 2
  | .none => 0#2
  | .activeLow => 1#2
  | .activeHigh => 2#2

/-- See `parityModeCode`. -/
def raModeCode : RaMode → BitVec 2
  | .none => 0#2
  | .hostFollow => 1#2
  | .keyAck => 2#2

/-- A record packed by R95. -/
def packConfig (c : Config) : ConfigWords :=
  { par := c.par
    cfg0 :=
      (match c.escSelector with
        | some b => place b 24 ||| place 1#1 23
        | none => 0#32) |||
        place (BitVec.ofBool (c.strobeEdge == .rising)) 22 ||| place (BitVec.ofBool (c.raPolarity == .activeHigh)) 21 |||
        place (raModeCode c.raMode) 19 ||| place (bellModeCode c.bellMode) 17 ||| place (dkModeCode c.dkMode) 15 |||
        place (BitVec.ofNat 4 c.dkCount) 11 ||| place (BitVec.ofBool c.invert) 10 |||
        place (parityModeCode c.parityMode) 8 ||| place c.charMask 0
    cfg1 := place c.dkReservedMask 15 ||| place c.dkInvertMask 0
    cfg2 := place c.charPullupMask 15 ||| place c.escMask 0
    cfg3 := c.debounceWindow
    cfg4 := c.raDelay
    bellDuration := c.bellDuration
    raDuration := c.raDuration
    act := c.action
    ab0 := c.ab0
    ab1 := c.ab1
    ab2 := c.ab2 }

end Sys2Proof.Machine
end

