-- ==== Sys2Proof/Machine/Inputs.lean ====
section
/-! DEFINITION. From the input ports to event words (60_exceptions.md R275): the strobe line's edges (40_capture_queue.md
R111) and the two direct-key buses (10_state.md R51). -/

namespace Sys2Proof.Machine

/-- Whether a transition of the strobe line, from level `before` to level `after`, is an edge in the direction
`cfg.strobeEdge` (10_state.md R49, 40_capture_queue.md R111). -/
def strobeFires (c : Config) (before after : Bool) : Bool :=
  match c.strobeEdge with
  | .falling => before && !after
  | .rising => !before && after

/-- The direct-key bus level from its two buses: lines 0 to 7 from the first, lines 8 to 14 from the second (10_state.md
R51, 90_conflicts.md C5). -/
def keyBus (first : Byte) (second : BitVec 7) : KeyMask := second.setWidth 15 <<< 8 ||| first.setWidth 15

/-- The operation a transition of the strobe line makes, the buses sampled at that instant: one STROBE for an edge in the
configured direction, none for another (40_capture_queue.md R111). -/
def strobeLine (c : Config) (before after : Bool) (ch : Byte) (k : KeyMask) : Option Instr :=
  if strobeFires c before after then some (.strobe ch k) else none

end Sys2Proof.Machine
end

