-- ==== Sys2Proof/Machine/Outcomes.lean ====
section
/-! DEFINITION. The outcome codes and the anomalies of an operation (60_exceptions.md R261 to R265). -/

namespace Sys2Proof.Machine

/-- The anomalies of 60_exceptions.md R261. -/
inductive Anomaly where
  | overflow | parityMismatch | unsupportedConfiguration | removeOnEmpty | illegalEncoding | outOfPhase
deriving DecidableEq, Repr

/-- The code of an anomaly (60_exceptions.md R261). -/
def anomalyCode : Anomaly → Nat
  | .overflow => 0x01
  | .parityMismatch => 0x02
  | .unsupportedConfiguration => 0x03
  | .removeOnEmpty => 0x10
  | .illegalEncoding => 0x20
  | .outOfPhase => 0x21

/-- The anomaly of a fault; the faults on a slot access have no code in R261. -/
def faultAnomaly : Fault → Option Anomaly
  | .removeOnEmpty => some .removeOnEmpty
  | .emptyCell => none
  | .slotOutOfRange => none

/-- The anomaly of a refusal; the end of the trace is none. -/
def refusalAnomaly : Refusal → Option Anomaly
  | .illegalEncoding => some .illegalEncoding
  | .outOfPhase => some .outOfPhase
  | .unsupportedConfiguration _ => some .unsupportedConfiguration
  | .endOfTrace => none
  | _ => none

/-- The silent drop of an admitted operation, if any: Overflow of a STROBE (R262), ParityMismatch of a DRAIN_STEP (R263). -/
def silentDrop (i : Instr) (s : State) : Option Anomaly :=
  match i with
  | .strobe _ _ => if isFull s then some .overflow else none
  | .drainStep =>
    if isEmpty s then none
    else
      match Memory.find s.slot s.outIdx with
      | some e => if parityOK s.cfg e.charCode then none else some .parityMismatch
      | none => none
  | .tick => none
  | .hostline _ => none
  | .rxPoll _ _ => none
  | .bellEnd => none
  | .activity => none
  | .raEnd => none
  | .dkPoll _ => none
  | .reset => none
  | .actNoop => none
  | .actBreak => none
  | .actAnswerback _ => none
  | .actEscapeprefix _ _ _ => none

/-- The anomaly an operation raises: a fault's, a refusal's, or a silent drop's (60_exceptions.md R261, R265). -/
def anomalyOf (i : Instr) (s : State) : Option Anomaly :=
  match exec i s with
  | .fault f => faultAnomaly f
  | .refused r => refusalAnomaly r
  | .next _ => silentDrop i s

end Sys2Proof.Machine
end

