-- ==== Sys2Proof/Machine/Trace.lean ====
section
/-! DEFINITION. Traces of operations: performing a list of them, the pseudo-operations TICKS and TASK (30_encoding.md R94,
41_drain_task.md R162) and the trace syntax (R93). -/

namespace Sys2Proof.Machine

/-- The operations of a list, one after the other, up to the first fault or refusal. -/
def execAll (is : List Instr) (s : State) : Result :=
  match is with
  | [] => .next s
  | i :: rest =>
    match exec i s with
    | .next s1 => execAll rest s1
    | .fault f => .fault f
    | .refused r => .refused r

/-- `TICKS n` (R94). -/
def ticks (n : Nat) : List Instr := List.replicate n .tick

/-- The cooperative operation of an invocation that a phase enables (10_state.md R25); IDLE ends the invocation. -/
def taskOp (k : KeyMask) (p : Phase) : Option Instr :=
  match p with
  | .idle => none
  | .bellWait => some .bellEnd
  | .drain => some .drainStep
  | .act => some .activity
  | .raWait => some .raEnd
  | .dkPoll => some (.dkPoll k)

/-- The rest of an invocation, at most `fuel` operations of it. -/
def taskRest (k : KeyMask) (fuel : Nat) (s : State) : List Instr :=
  match fuel with
  | 0 => []
  | n + 1 =>
    match taskOp k s.phase with
    | none => []
    | some i =>
      match exec i s with
      | .next s1 => i :: taskRest k n s1
      | .fault _ => [i]
      | .refused _ => [i]

/-- The RX_POLL of `rx=<none|b>` (R93). -/
def rxPollOf (rx : Option Byte) : Instr :=
  match rx with
  | none => .rxPoll false 0#8
  | some b => .rxPoll true b

/-- `TASK rx=<rx> k=<k>` (R94): the words that stand for one whole invocation from `s`. An invocation with `m` queued entries
has at most `m + 6` operations (41_drain_task.md R162). -/
def task (rx : Option Byte) (k : KeyMask) (s : State) : List Instr :=
  match exec (rxPollOf rx) s with
  | .next s1 => rxPollOf rx :: taskRest k (queueCount s1 + 5) s1
  | .fault _ => [rxPollOf rx]
  | .refused _ => [rxPollOf rx]

/-! ### The trace syntax (R93) -/

/-- A line of a trace: an operation or a pseudo-operation. -/
inductive TraceLine where
  | op (i : Instr)
  | ticks (n : Nat)
  | task (rx : Option Byte) (k : KeyMask)
deriving DecidableEq, Repr

/-- The operations a line stands for from a state (R94). -/
def expandLine (l : TraceLine) (s : State) : List Instr :=
  match l with
  | .op i => [i]
  | .ticks n => ticks n
  | .task rx k => task rx k s

/-- The characters before a `;`, which starts a comment. -/
def stripComment (cs : List Char) : List Char := cs.takeWhile fun c => c != ';'

/-- The words of a line: its runs of characters other than spaces. -/
def splitWords (cs : List Char) : List (List Char) :=
  (cs.foldr
    (fun c acc =>
      match c == ' ', acc with
      | true, rest => [] :: rest
      | false, [] => [[c]]
      | false, w :: rest => (c :: w) :: rest)
    [[]]).filter fun w => w != []

/-- The value of a digit character in a base. -/
def digitValue (base : Nat) (c : Char) : Option Nat :=
  let n := c.toNat
  let v :=
    if 48 ≤ n ∧ n ≤ 57 then n - 48
    else if 65 ≤ n ∧ n ≤ 70 then n - 55
    else if 97 ≤ n ∧ n ≤ 102 then n - 87
    else base
  if v < base then some v else none

/-- The number a run of digits spells, most significant first; at least one digit. -/
def digits (base : Nat) (cs : List Char) : Option Nat :=
  match cs with
  | [] => none
  | c :: rest =>
    (c :: rest).foldl
      (fun acc d =>
        match acc, digitValue base d with
        | some n, some v => some (n * base + v)
        | _, _ => none)
      (some 0)

/-- A value: hexadecimal with `0x`, or decimal (R93). -/
def parseValue (cs : List Char) : Option Nat :=
  match cs with
  | '0' :: 'x' :: rest => digits 16 rest
  | other => digits 10 other

/-- `name=value` as its two parts. -/
def splitField (cs : List Char) : Option (List Char × List Char) :=
  match cs.span fun c => c != '=' with
  | (name, _ :: value) => some (name, value)
  | (_, []) => none

/-- The fields of a line, each a name and its text. -/
def parseFields (ws : List (List Char)) : Option (List (List Char × List Char)) := ws.mapM splitField

/-- The number given to a field, or the default where it is omitted and has one; none where it does not fit its width. -/
def fieldValue (fields : List (List Char × List Char)) (name : String) (width : Nat) (dflt : Option Nat) : Option Nat :=
  match fields.lookup name.toList with
  | some text => (parseValue text).filter fun n => n < 2 ^ width
  | none => dflt

/-- The names used are among those the operation has, none twice. -/
def fieldsAmong (fields : List (List Char × List Char)) (names : List String) : Bool :=
  (fields.map Prod.fst).all (fun n => (names.map String.toList).contains n) && (fields.map Prod.fst).Nodup

/-- The operand `rx` of TASK (R94): `none` or a byte; omitted it is `none`. -/
def rxField (fields : List (List Char × List Char)) : Option (Option Byte) :=
  match fields.lookup "rx".toList with
  | none => some none
  | some text =>
    if text = "none".toList then some none
    else ((parseValue text).filter fun n => n < 2 ^ 8).map fun n => some (BitVec.ofNat 8 n)

/-- The line that an operation's mnemonic and fields spell (R93). An omitted `k` is 0. -/
def lineOf (mnemonic : List Char) (fields : List (List Char × List Char)) : Option TraceLine :=
  if mnemonic = "STROBE".toList ∧ fieldsAmong fields ["c", "k"] then
    match fieldValue fields "c" 8 none, fieldValue fields "k" 15 (some 0) with
    | some c, some k => some (.op (.strobe (BitVec.ofNat 8 c) (BitVec.ofNat 15 k)))
    | _, _ => none
  else if mnemonic = "HOSTLINE".toList ∧ fieldsAmong fields ["s"] then
    (fieldValue fields "s" 1 none).map fun v => .op (.hostline (v == 1))
  else if mnemonic = "RX_POLL".toList ∧ fieldsAmong fields ["b"] then
    (fieldValue fields "b" 8 none).map fun b => .op (.rxPoll true (BitVec.ofNat 8 b))
  else if mnemonic = "DK_POLL".toList ∧ fieldsAmong fields ["k"] then
    (fieldValue fields "k" 15 (some 0)).map fun k => .op (.dkPoll (BitVec.ofNat 15 k))
  else if mnemonic = "TASK".toList ∧ fieldsAmong fields ["rx", "k"] then
    match rxField fields, fieldValue fields "k" 15 (some 0) with
    | some rx, some k => some (.task rx (BitVec.ofNat 15 k))
    | _, _ => none
  else if fields ≠ [] then none
  else if mnemonic = "TICK".toList then some (.op .tick)
  else if mnemonic = "BELL_END".toList then some (.op .bellEnd)
  else if mnemonic = "DRAIN_STEP".toList then some (.op .drainStep)
  else if mnemonic = "ACTIVITY".toList then some (.op .activity)
  else if mnemonic = "RA_END".toList then some (.op .raEnd)
  else if mnemonic = "RESET".toList then some (.op .reset)
  else none

/-- The line a text spells (R93): none in the outer option where it spells nothing, none in the inner one where it holds a
comment or spaces only. -/
def parseLine (text : List Char) : Option (Option TraceLine) :=
  match splitWords (stripComment text) with
  | [] => some none
  | mnemonic :: args =>
    if mnemonic = "RX_POLL".toList ∧ args = ["none".toList] then some (some (.op (.rxPoll false 0#8)))
    else if mnemonic = "TICKS".toList then
      match args with
      | [n] => (parseValue n).map fun v => some (.ticks v)
      | _ => none
    else (parseFields args).bind fun fields => (lineOf mnemonic fields).map some

end Sys2Proof.Machine
end

