-- ==== Sys2Proof/Safety.lean ====
section
/-! DEFINITION. The terms claims are stated in: the queue's contents, the events of a dispatch, what an operation may write,
and the invariant of every run. -/

namespace Sys2Proof.Machine

/-! ### The queue as a list -/

/-- The cells from `out` up to `in`, oldest first (40_capture_queue.md R118). -/
def contents (s : State) : List (Option Entry) :=
  (List.range (queueCount s)).map fun j => Memory.find s.slot ((s.outIdx + j) % slotCount s)

/-! ### The events of actions and of a dispatch -/

/-- The output events of one action (43_dispatch.md R210 to R213). -/
def actionEvents (c : Config) (a : Action) (pressed : Bool) : List OutEvent :=
  match a with
  | .noop => []
  | .brk => [.ctrl pressed, .ind pressed]
  | .answerback idx => if pressed then (answerback c idx).map .tx else []
  | .escapePrefix selPresent sel lit =>
    if pressed then
      if selPresent then [.tx c.par.escByte, .tx sel, .tx lit] else [.tx c.par.escByte, .tx lit]
    else []

/-- The indicator after one action (43_dispatch.md R211). -/
def actionInd (a : Action) (pressed old : Bool) : Bool :=
  match a with
  | .noop => old
  | .brk => pressed
  | .answerback _ => old
  | .escapePrefix _ _ _ => old

/-- The key indices that differ between two masks, each less 1, low to high (43_dispatch.md R200). -/
def changedKeys (prev new : KeyMask) : List Nat := (List.range 15).filter fun i => (prev ^^^ new).getLsbD i

/-- The output events of `Dispatch(new)` from `dkPrev = prev` (43_dispatch.md R200, R202). -/
def dispatchEvents (c : Config) (prev new : KeyMask) : List OutEvent :=
  (changedKeys prev new).flatMap fun i => actionEvents c (actionOf c i) (new.getLsbD i)

/-- The indicator after `Dispatch(new)` from `dkPrev = prev` (43_dispatch.md R200, R211). -/
def dispatchInd (c : Config) (prev new : KeyMask) (old : Bool) : Bool :=
  (changedKeys prev new).foldl (fun ind i => actionInd (actionOf c i) (new.getLsbD i) ind) old

/-- The output events of an entry that passes the parity check (41_drain_task.md R146). -/
def charEvents (c : Config) (y : Byte) (dk : Option KeyMask) : List OutEvent :=
  match dk with
  | none => [.tx y]
  | some k =>
    if c.escMask ≠ 0#15 ∧ k &&& c.escMask ≠ 0#15 then
      match c.escSelector with
      | none => [.tx c.par.escByte, .tx y]
      | some b => [.tx c.par.escByte, .tx b, .tx y]
    else [.tx y]

/-! ### Illegal words -/

/-- The words that spell no operation, by the three bullets of 30_encoding.md R91: a reserved `op`, a reserved payload bit set
in the format of `op` (R82), an RX_POLL word with `v = 0` and `b != 0`. -/
def illegalWord (w : Word) : Prop :=
  (w >>> 28 = 0x0#32 ∨ w >>> 28 = 0xA#32 ∨ w >>> 28 = 0xB#32 ∨ w >>> 28 = 0xC#32 ∨ w >>> 28 = 0xD#32 ∨
    w >>> 28 = 0xE#32) ∨
  ((w >>> 28 = 0x2#32 ∨ w >>> 28 = 0x5#32 ∨ w >>> 28 = 0x6#32 ∨ w >>> 28 = 0x7#32 ∨ w >>> 28 = 0x8#32 ∨
    w >>> 28 = 0xF#32) ∧ w &&& 0x0FFFFFFF#32 ≠ 0#32) ∨
  (w >>> 28 = 0x1#32 ∧ w &&& 0x0F800000#32 ≠ 0#32) ∨
  (w >>> 28 = 0x3#32 ∧ w &&& 0x0FFFFFFE#32 ≠ 0#32) ∨
  (w >>> 28 = 0x4#32 ∧ w &&& 0x0FFFFE00#32 ≠ 0#32) ∨
  (w >>> 28 = 0x9#32 ∧ w &&& 0x0FFF8000#32 ≠ 0#32) ∨
  (w >>> 28 = 0x4#32 ∧ w &&& 0x00000100#32 = 0#32 ∧ w &&& 0x000000FF#32 ≠ 0#32)

/-! ### What an answer may be -/

/-- The answer is no fault. -/
def noFault (r : Result) : Bool :=
  match r with
  | .next _ => true
  | .refused _ => true
  | .fault _ => false

/-- The answer is a next state. -/
def isNext (r : Result) : Bool :=
  match r with
  | .next _ => true
  | .refused _ => false
  | .fault _ => false

/-- A property of the next state, where there is one. -/
def onNext (r : Result) (p : State → Prop) : Prop :=
  match r with
  | .next t => p t
  | .refused _ => True
  | .fault _ => True

/-- The same answer with its next state changed by `f`. -/
def mapNext (f : State → State) (r : Result) : Result :=
  match r with
  | .next t => .next (f t)
  | .refused x => .refused x
  | .fault x => .fault x

/-! ### The invariant of every run -/

/-- No bit outside `dkMask` (10_state.md R51, 43_dispatch.md R204). -/
def keysInMask (c : Config) (k : KeyMask) : Bool := (k &&& ~~~dkMask c) == 0#15

/-- An entry carries a sample within `dkMask` in strobe mode, and none otherwise (40_capture_queue.md R110). -/
def entryFits (c : Config) (e : Entry) : Bool :=
  match c.dkMode, e.directKeys with
  | .strobe, some k => keysInMask c k
  | .strobe, none => false
  | .off, dk => dk == none
  | .poll, dk => dk == none

/-- The bell pin: the active level during the pulse, the reset level otherwise (10_state.md R28, 44_handshake.md R244 to
R246). -/
def bellPinFits (s : State) : Bool :=
  match s.phase with
  | .bellWait => some s.bellPin == bellActive s.cfg
  | .idle | .drain | .act | .raWait | .dkPoll => s.bellPin == bellResetLevel s.cfg

/-- The ready/ack pin: undriven in mode none, either level in host-follow mode, in key-ack mode active exactly during the
pulse (44_handshake.md R230 to R241). -/
def raPinFits (s : State) : Bool :=
  match s.cfg.raMode with
  | .none => s.raPin == .Z && s.phase != .raWait
  | .hostFollow => (s.raPin == raActive s.cfg || s.raPin == raInactive s.cfg) && s.phase != .raWait
  | .keyAck => s.raPin == (if s.phase = .raWait then raActive s.cfg else raInactive s.cfg)

/-- The invariant of every run from a power-up state. -/
structure Inv (s : State) : Prop where
  /-- The configuration passes its checks (70_reset_and_hazards.md R293). -/
  cfg_ok : failedCheck s.cfg = none
  /-- Its times fit TW bits (10_state.md R26, R38, R46). -/
  cfg_fits : timesFit s.cfg = true
  /-- `in` is in [0, N) (10_state.md R23). -/
  in_lt : s.inIdx < slotCount s
  /-- `out` is in [0, N) (10_state.md R24). -/
  out_lt : s.outIdx < slotCount s
  /-- The slot space keeps its canonical form. -/
  slot_wf : Memory.wf s.slot = true
  /-- No cell outside [0, N) is listed, and every listed entry fits the mode (00_scope.md R11, 10_state.md R21). -/
  slot_fits : (s.slot.all fun p => decide (p.1 < slotCount s) && entryFits s.cfg p.2) = true
  /-- Every cell from `out` up to `in` holds an entry (10_state.md R22). -/
  queue_written : ((contents s).all Option.isSome) = true
  /-- `time` is a TW-bit number (10_state.md R26). -/
  time_lt : s.time < timeModulus s.cfg
  /-- `candidateStart` is a TW-bit number (10_state.md R54). -/
  start_lt : s.db.candidateStart < timeModulus s.cfg
  /-- `lastSendTime` is a TW-bit number (10_state.md R55). -/
  send_lt : s.hs.lastSendTime < timeModulus s.cfg
  /-- `dkPrev` has no bit outside `dkMask` (43_dispatch.md R204). -/
  prev_fits : keysInMask s.cfg s.dkPrev = true
  /-- The debounce candidate has no bit outside `dkMask` (40_capture_queue.md R112). -/
  candidate_fits : keysInMask s.cfg s.db.candidate = true
  /-- Outside debounced poll mode `db` is never written (10_state.md R54). -/
  db_unused : (s.cfg.dkMode ≠ .poll ∨ s.cfg.debounceWindow = 0) →
    s.db = { candidate := 0#15, candidateStart := 0, inProgress := false }
  /-- In the Stable state the candidate is the accepted value (42_debounce.md R182). -/
  db_stable : s.cfg.dkMode = .poll → 0 < s.cfg.debounceWindow → s.db.inProgress = false → s.db.candidate = s.dkPrev
  /-- Outside delayed key-ack `hs` is never written (10_state.md R55). -/
  hs_unused : (s.cfg.raMode ≠ .keyAck ∨ s.cfg.raDelay = 0) → s.hs = { pending := false, lastSendTime := 0 }
  /-- The bell pin's level (10_state.md R28). -/
  bell_pin : bellPinFits s = true
  /-- The ready/ack pin's level, and RA_WAIT in key-ack mode only (10_state.md R28, 44_handshake.md R238). -/
  ra_pin : raPinFits s = true
  /-- No fault is recorded (10_state.md R57). -/
  no_fault : s.fault = none

end Sys2Proof.Machine
end

