-- ==== Sys2Proof/Certificates/Slice0/Obligations.lean ====
section
/-! DEFINITION. The statements for the provers. Each names the rule of spec/ it formalises; a statement that rests on a
choice of the model says so and names the log entry. A result is an equation of whole states: what it does not name is
unchanged. -/

open Sys2Proof Sys2Proof.Machine

/-! ### Encoding -/

/-- 30_encoding.md R93 (the words beside the trace syntax) and 95_test_vectors.md section 2.5: the words written out there
decode to the operations and actions named there. -/
def Obligations.SpecWordsDecode : Prop :=
  decodeEvent 0x10000041#32 = .ok (.strobe 0x41#8 0#15) ∧ decodeEvent 0x20000000#32 = .ok .tick ∧
  decodeEvent 0x30000001#32 = .ok (.hostline true) ∧ decodeEvent 0x40000000#32 = .ok (.rxPoll false 0#8) ∧
  decodeEvent 0x40000105#32 = .ok (.rxPoll true 0x05#8) ∧ decodeEvent 0x50000000#32 = .ok .bellEnd ∧
  decodeEvent 0x60000000#32 = .ok .drainStep ∧ decodeEvent 0x70000000#32 = .ok .activity ∧
  decodeEvent 0x80000000#32 = .ok .raEnd ∧ decodeEvent 0x90000001#32 = .ok (.dkPoll 1#15) ∧
  decodeEvent 0xF0000000#32 = .ok .reset ∧
  decodeAction 0x00000000#32 = .ok .noop ∧ decodeAction 0x00000001#32 = .ok .brk ∧
  decodeAction 0x0000000A#32 = .ok (.answerback 2#2) ∧
  decodeAction 0x00504F13#32 = .ok (.escapePrefix true 0x4F#8 0x50#8)

/-- 30_encoding.md R90: an operation is selected exactly by the mask and match of its row, RX_POLL with one more
condition. -/
def Obligations.OperationSelectedByMaskAndMatch : Prop :=
  ∀ w : Word,
    ((∃ c k, decodeEvent w = .ok (.strobe c k)) ↔ w &&& 0xFF800000#32 = 0x10000000#32) ∧
    (decodeEvent w = .ok .tick ↔ w &&& 0xFFFFFFFF#32 = 0x20000000#32) ∧
    ((∃ a, decodeEvent w = .ok (.hostline a)) ↔ w &&& 0xFFFFFFFE#32 = 0x30000000#32) ∧
    ((∃ v b, decodeEvent w = .ok (.rxPoll v b)) ↔
      w &&& 0xFFFFFE00#32 = 0x40000000#32 ∧ (w &&& 0x00000100#32 = 0#32 → w &&& 0x000000FF#32 = 0#32)) ∧
    (decodeEvent w = .ok .bellEnd ↔ w &&& 0xFFFFFFFF#32 = 0x50000000#32) ∧
    (decodeEvent w = .ok .drainStep ↔ w &&& 0xFFFFFFFF#32 = 0x60000000#32) ∧
    (decodeEvent w = .ok .activity ↔ w &&& 0xFFFFFFFF#32 = 0x70000000#32) ∧
    (decodeEvent w = .ok .raEnd ↔ w &&& 0xFFFFFFFF#32 = 0x80000000#32) ∧
    ((∃ k, decodeEvent w = .ok (.dkPoll k)) ↔ w &&& 0xFFFF8000#32 = 0x90000000#32) ∧
    (decodeEvent w = .ok .reset ↔ w &&& 0xFFFFFFFF#32 = 0xF0000000#32)

/-- 30_encoding.md R91: a step on a word is refused as an illegal encoding exactly when the word is one R91 lists; a refusal
leaves no state, so the state is unchanged. -/
def Obligations.IllegalWordsAreRefused : Prop :=
  ∀ (s : State) (w : Word) (rest : List Word), s.trace = w :: rest →
    (step s = .refused .illegalEncoding ↔ illegalWord w)

/-- 30_encoding.md R82 to R89: decoding the word of a well-formed event operation gives it back, for every operand. -/
def Obligations.EventEncodingRoundTrip : Prop :=
  ∀ i : Instr, i.space = .eventWord → i.wf = true → decodeEvent (encode i) = .ok i

/-- 30_encoding.md R81 to R91: what decodes is well formed, is an event operation, and has that word: no bit is dropped. -/
def Obligations.EventDecodingLosesNothing : Prop :=
  ∀ (w : Word) (i : Instr), decodeEvent w = .ok i → i.wf = true ∧ i.space = .eventWord ∧ encode i = w

/-- 30_encoding.md R100 to R105: the same in both directions for the action descriptors. -/
def Obligations.ActionEncodingRoundTrip : Prop :=
  (∀ a : Action, a.wf = true → decodeAction (encode a.toInstr) = .ok a) ∧
  (∀ (w : Word) (a : Action), decodeAction w = .ok a → a.wf = true ∧ encode a.toInstr = w)

/-- 30_encoding.md, introduction: the two spaces share no word, so one reading of the table's words serves both. -/
def Obligations.TableWordRoundTrip : Prop :=
  ∀ i : Instr, i.wf = true → decodeTableWord 32 (encode i).toNat = some i

/-- 20_memory.md R61: the 24 bits of a slot hold `charCode`, the presence bit and the mask at the places named, and give the
entry back. -/
def Obligations.SlotPackingHoldsTheEntry : Prop :=
  ∀ e : Entry,
    unpackEntry (packEntry e) = e ∧
    (packEntry e).extractLsb' 0 8 = e.charCode ∧
    ((packEntry e).getLsbD 8 = e.directKeys.isSome) ∧
    (packEntry e).extractLsb' 9 15 = e.directKeys.getD 0#15

/-! ### The step, admission and configuration -/

/-- 30_encoding.md R80, 20_memory.md R67: one step delivers the head word of the trace and performs the operation it decodes
to. The trace and the refusal at its end are the model's own (log 3). -/
def Obligations.StepRunsTheDecodedOperation : Prop :=
  (∀ (s : State) (w : Word) (rest : List Word) (i : Instr), s.trace = w :: rest → decodeEvent w = .ok i →
    step s = exec i { s with trace := rest }) ∧
  (∀ s : State, s.trace = [] → step s = .refused .endOfTrace)

/-- The model's own placement of a word (logs 3, 4 and 5): a placed event word is the next operation, run in the phase that
admits it; a placed descriptor is run, pressed, by the next operation. -/
def Obligations.PlacedWordRunsNext : Prop :=
  (∀ (s : State) (i : Instr), i.space = .eventWord → i.wf = true →
    step (s.withFetchWord 32 (encode i).toNat) = exec i { s with phase := admittingPhase i s.phase }) ∧
  (∀ (s : State) (a : Action), a.wf = true → failedCheck s.cfg = none →
    ∃ t, step (s.withFetchWord 32 (encode a.toInstr).toNat) = .next t ∧
      t.outv = s.outv ++ actionEvents s.cfg a true ∧ t.ind = actionInd a true s.ind)

/-- 30_encoding.md R92: STROBE, TICK and RESET are never out of phase, each cooperative operation is out of phase exactly
outside its one phase, and every phase admits one of the seven, IDLE two. -/
def Obligations.AdmissionByPhase : Prop :=
  (∀ s : State, failedCheck s.cfg = none →
    (∀ c k, exec (.strobe c k) s ≠ .refused .outOfPhase) ∧
    exec .tick s ≠ .refused .outOfPhase ∧
    exec .reset s ≠ .refused .outOfPhase ∧
    (∀ v b, exec (.rxPoll v b) s = .refused .outOfPhase ↔ s.phase ≠ .idle) ∧
    (∀ a, exec (.hostline a) s = .refused .outOfPhase ↔ s.phase ≠ .idle) ∧
    (exec .bellEnd s = .refused .outOfPhase ↔ s.phase ≠ .bellWait) ∧
    (exec .drainStep s = .refused .outOfPhase ↔ s.phase ≠ .drain) ∧
    (exec .activity s = .refused .outOfPhase ↔ s.phase ≠ .act) ∧
    (exec .raEnd s = .refused .outOfPhase ↔ s.phase ≠ .raWait) ∧
    (∀ k, exec (.dkPoll k) s = .refused .outOfPhase ↔ s.phase ≠ .dkPoll)) ∧
  (∀ p : Phase,
    (([.rxPoll false 0#8, .hostline false, .bellEnd, .drainStep, .activity, .raEnd, .dkPoll 0#15] : List Instr).filter
      fun i => phaseAdmits (admissionOf i) p).length = if p = .idle then 2 else 1)

/-- 70_reset_and_hazards.md R293, on the bits of 30_encoding.md R95: packed words boot exactly when they pass the nine checks,
and under a configuration that fails a check no operation is admitted, with code 0x03 (60_exceptions.md R261). Two points are
the model's: code 3 of `dkMode`, which 10_state.md R35 rejects, is rejected beside check 3 (log 9), and descriptor words after
the fifteenth belong to no key and are not checked (log 15). -/
def Obligations.ConfigurationCheckGuardsOperation : Prop :=
  (∀ w : ConfigWords,
    (∃ s, boot w = .ok s) ↔
      (w.cfg0 >>> 8 &&& 3#32 ≠ 3#32 ∧
       (w.cfg0 >>> 11 &&& 15#32).toNat ≤ 15 ∧
       (w.cfg0 >>> 15 &&& 3#32 ≠ 3#32 ∧ (w.cfg0 >>> 15 &&& 3#32 = 0#32 ↔ w.cfg0 >>> 11 &&& 15#32 = 0#32)) ∧
       ((∀ i j, i < 15 → j < 15 → w.cfg1.getLsbD (15 + i) = true → w.cfg1.getLsbD (15 + j) = true → i = j) ∧
        (∀ i, i < 15 → w.cfg1.getLsbD (15 + i) = true → i < (w.cfg0 >>> 11 &&& 15#32).toNat)) ∧
       w.cfg0 >>> 17 &&& 3#32 ≠ 3#32 ∧
       w.cfg0 >>> 19 &&& 3#32 ≠ 3#32 ∧
       (∀ d ∈ w.act.take 15, ∃ a, decodeAction d = .ok a) ∧
       (w.cfg1 >>> 30 = 0#32 ∧ w.cfg2 >>> 23 = 0#32 ∧ (w.cfg0.getLsbD 23 = false → w.cfg0 >>> 24 = 0#32)) ∧
       (2 ≤ w.par.n ∧ w.ab0.length ≤ w.par.abMax ∧ w.ab1.length ≤ w.par.abMax ∧ w.ab2.length ≤ w.par.abMax))) ∧
  (∀ (i : Instr) (s : State) (c : ConfigCheck), failedCheck s.cfg = some c →
    exec i s = .refused (.unsupportedConfiguration c) ∧
      (anomalyOf i s).map anomalyCode = some 0x03)

/-- 30_encoding.md R95: a legal record, packed into the configuration words, loads as itself. -/
def Obligations.PackedConfigurationLoads : Prop :=
  ∀ c : Config, failedCheck c = none → timesFit c = true → c.action.length ≤ 15 → loadConfig (packConfig c) = .ok c

/-- 70_reset_and_hazards.md R291, R292, R294: what a legal packed configuration boots into, field by field. -/
def Obligations.BootGivesTheResetTable : Prop :=
  ∀ (w : ConfigWords) (s : State), boot w = .ok s →
    loadConfig w = .ok s.cfg ∧ (∀ a, Memory.find s.slot a = none) ∧ s.inIdx = 0 ∧ s.outIdx = 0 ∧ s.time = w.par.time0 ∧
    s.phase = .idle ∧ s.sent = false ∧ s.ind = false ∧
    s.bellPin = (match s.cfg.bellMode with | .none => .Z | .activeLow => .H | .activeHigh => .L) ∧
    s.raPin = (if s.cfg.raMode = .none then .Z else if s.cfg.raPolarity = .activeHigh then .L else .H) ∧
    s.outv = [] ∧ s.dkPrev = 0#15 ∧ s.db = { candidate := 0#15, candidateStart := 0, inProgress := false } ∧
    s.hs = { pending := false, lastSendTime := 0 } ∧ s.ovf = 0#32 ∧ s.fault = none

/-! ### The invariant -/

/-- Every step keeps the invariant of Safety.lean (10_state.md R22 to R29, R53 to R57, 44_handshake.md R230, R238, R244,
43_dispatch.md R204, 42_debounce.md R182). -/
def Obligations.StepKeepsTheInvariant : Prop :=
  ∀ s t : State, Inv s → step s = .next t → Inv t

/-- The power-up state of every legal configuration has the invariant, and so has the reset state (log 2 names its
configuration). -/
def Obligations.PowerUpHasTheInvariant : Prop :=
  (∀ c : Config, failedCheck c = none → timesFit c = true → Inv (State.powerUp c)) ∧ Inv State.reset

/-- 40_capture_queue.md R117, 10_state.md R22, R57: from a state with the invariant no step faults. -/
def Obligations.NoStepFaults : Prop :=
  ∀ s : State, Inv s → noFault (step s) = true

/-- 60_exceptions.md R260, 30_encoding.md R92: from a state with the invariant, a word that spells an operation the phase
admits is performed. -/
def Obligations.AdmittedOperationsComplete : Prop :=
  ∀ (s : State) (w : Word) (rest : List Word) (i : Instr), Inv s → s.trace = w :: rest → decodeEvent w = .ok i →
    phaseAdmits (admissionOf i) s.phase = true → ∃ t, step s = .next t

/-! ### Capture queue and Time Base -/

/-- 40_capture_queue.md R110, R112, R116: a STROBE on a queue with room stores the sampled entry in slot `in` and advances
`in`; the sample is taken in strobe mode only. Every other slot reads as before. -/
def Obligations.StrobeStoresTheEntry : Prop :=
  ∀ (s : State) (c : Byte) (k : KeyMask), failedCheck s.cfg = none → s.inIdx < s.cfg.par.n →
    (s.inIdx + 1) % s.cfg.par.n ≠ s.outIdx →
    ∃ m : Memory,
      exec (.strobe c k) s = .next { s with slot := m, inIdx := (s.inIdx + 1) % s.cfg.par.n } ∧
      Memory.find m s.inIdx = some
        { charCode := c,
          directKeys := if s.cfg.dkMode = .strobe then
            some ((k ^^^ s.cfg.dkInvertMask) &&& (BitVec.ofNat 15 (2 ^ s.cfg.dkCount - 1) &&& ~~~s.cfg.dkReservedMask))
            else none } ∧
      (∀ a, a ≠ s.inIdx → Memory.find m a = Memory.find s.slot a) ∧
      (Memory.wf s.slot = true → Memory.wf m = true)

/-- 60_exceptions.md R262: a STROBE that finds the queue full changes `ovf` and nothing else. -/
def Obligations.StrobeOnFullQueueCountsOnly : Prop :=
  ∀ (s : State) (c : Byte) (k : KeyMask), failedCheck s.cfg = none → (s.inIdx + 1) % s.cfg.par.n = s.outIdx →
    exec (.strobe c k) s = .next { s with ovf := s.ovf + 1#32 }

/-- 40_capture_queue.md R120: TICK, and that a wrap does not disturb an elapsed time below 2^TW. -/
def Obligations.TickAdvancesTheTimeBase : Prop :=
  (∀ s : State, failedCheck s.cfg = none →
    exec .tick s = .next { s with time := (s.time + 1) % 2 ^ s.cfg.par.tw }) ∧
  (∀ (c : Config) (t d : Nat), t < 2 ^ c.par.tw → d < 2 ^ c.par.tw → elapsed c ((t + d) % 2 ^ c.par.tw) t = d)

/-- 10_state.md R24, 40_capture_queue.md R115, R118: the count, and the two predicates read from it. -/
def Obligations.QueuePredicatesFollowTheCount : Prop :=
  ∀ s : State, Inv s →
    (contents s).length ≤ s.cfg.par.n - 1 ∧
    (isEmpty s = true ↔ (contents s).length = 0) ∧
    (isFull s = true ↔ (contents s).length = s.cfg.par.n - 1) ∧
    ¬(isEmpty s = true ∧ isFull s = true)

/-- 20_memory.md R70, 40_capture_queue.md R118: the ring buffer is a first-in first-out list of at most N - 1 entries: a
STROBE appends its entry or, on a full list, nothing; a DRAIN_STEP takes the oldest; RESET empties it; nothing else touches
it. -/
def Obligations.RingBufferRefinesAFifo : Prop :=
  ∀ (s t : State) (i : Instr), Inv s → exec i s = .next t →
    contents t =
      match i with
      | .strobe c k =>
        if (contents s).length = s.cfg.par.n - 1 then contents s else contents s ++ [some (captureEntry s.cfg c k)]
      | .drainStep => (contents s).tail
      | .reset => []
      | .tick | .hostline _ | .rxPoll _ _ | .bellEnd | .activity | .raEnd | .dkPoll _ => contents s
      | .actNoop | .actBreak | .actAnswerback _ | .actEscapeprefix _ _ _ => contents s

/-- 20_memory.md R69, 40_capture_queue.md R116: a STROBE never changes the entry the consumer reads next, and never empties
the queue. -/
def Obligations.StrobeNeverOverwritesTheOldestEntry : Prop :=
  ∀ (s t : State) (c : Byte) (k : KeyMask), isEmpty s = false → exec (.strobe c k) s = .next t →
    isEmpty t = false ∧ t.outIdx = s.outIdx ∧ Memory.find t.slot t.outIdx = Memory.find s.slot s.outIdx

/-- 40_capture_queue.md R110, R120: a STROBE and a TICK taken in either order leave the same state. 60_exceptions.md R268 leaves
that order open and admits both (log 11); that both end alike is an inference from what the two operations write. -/
def Obligations.StrobeAndTickCommute : Prop :=
  ∀ (s : State) (c : Byte) (k : KeyMask), execAll [.strobe c k, .tick] s = execAll [.tick, .strobe c k] s

/-- 40_capture_queue.md R111: one STROBE for each transition in the configured direction, none for the other transition or
for no transition; it carries the sampled buses. -/
def Obligations.OneStrobePerConfiguredEdge : Prop :=
  ∀ (c : Config) (ch : Byte) (k : KeyMask) (before after : Bool),
    strobeLine c before after ch k =
      if before ≠ after ∧ (after = true ↔ c.strobeEdge = .rising) then some (.strobe ch k) else none

/-! ### Drain Task -/

/-- 41_drain_task.md R140: RX_POLL in phase IDLE. -/
def Obligations.RxPollStartsTheInvocation : Prop :=
  ∀ (s : State) (v : Bool) (b : Byte), failedCheck s.cfg = none → s.phase = .idle →
    exec (.rxPoll v b) s = .next
      (if v = true ∧ b = 0x05#8 then
        { s with sent := false, outv := s.outv ++ s.cfg.ab0.map OutEvent.tx, phase := .drain }
       else if v = true ∧ b = 0x07#8 ∧ s.cfg.bellMode = .activeLow then
        { s with sent := false, bellPin := .L, outv := s.outv ++ [.bell .L], phase := .bellWait }
       else if v = true ∧ b = 0x07#8 ∧ s.cfg.bellMode = .activeHigh then
        { s with sent := false, bellPin := .H, outv := s.outv ++ [.bell .H], phase := .bellWait }
       else { s with sent := false, phase := .drain })

/-- 41_drain_task.md R141: an inbound byte other than ENQ and BEL does what no byte does. -/
def Obligations.OtherInboundBytesAreIgnored : Prop :=
  ∀ (s : State) (b : Byte), b ≠ 0x05#8 → b ≠ 0x07#8 → exec (.rxPoll true b) s = exec (.rxPoll false 0#8) s

/-- 41_drain_task.md R143: the parity check by the number of one bits. -/
def Obligations.ParityCheckCountsOneBits : Prop :=
  ∀ (c : Config) (v : Byte),
    parityOK c v =
      match c.parityMode with
      | .none => true
      | .even => ((List.range 8).countP fun i => v.getLsbD i) % 2 == 0
      | .odd => ((List.range 8).countP fun i => v.getLsbD i) % 2 == 1

/-- 41_drain_task.md R144: the transform, bit by bit. -/
def Obligations.TransformInvertsThenMasks : Prop :=
  ∀ (c : Config) (v : Byte) (i : Nat), i < 8 →
    (xform c v).getLsbD i = ((v.getLsbD i ^^ c.invert) && c.charMask.getLsbD i)

/-- 41_drain_task.md R145, R150: DRAIN_STEP on an empty queue only ends the drain. -/
def Obligations.DrainStepOnEmptyQueueEndsTheDrain : Prop :=
  ∀ s : State, failedCheck s.cfg = none → s.phase = .drain → s.inIdx = s.outIdx →
    exec .drainStep s = .next { s with phase := .act }

/-- 41_drain_task.md R145 to R149, R163: DRAIN_STEP on an entry: its keys are dispatched first, then, if the raw code passes
the parity check, its character goes out and `sent` is set; otherwise nothing more. The phase stays DRAIN and `db` is
untouched. -/
def Obligations.DrainStepProcessesTheOldestEntry : Prop :=
  ∀ (s : State) (e : Entry), failedCheck s.cfg = none → s.phase = .drain → s.inIdx ≠ s.outIdx → s.outIdx < s.cfg.par.n →
    Memory.find s.slot s.outIdx = some e →
    exec .drainStep s = .next
      { s with
        outIdx := (s.outIdx + 1) % s.cfg.par.n
        dkPrev := e.directKeys.getD s.dkPrev
        ind := match e.directKeys with
          | some k => dispatchInd s.cfg s.dkPrev k s.ind
          | none => s.ind
        outv := s.outv ++
          (match e.directKeys with
            | some k => dispatchEvents s.cfg s.dkPrev k
            | none => []) ++
          (if parityOK s.cfg e.charCode then charEvents s.cfg (xform s.cfg e.charCode) e.directKeys else [])
        sent := s.sent || parityOK s.cfg e.charCode }

/-- 41_drain_task.md R160, 42_debounce.md R180 to R183: DK_POLL in phase DKPOLL, in every mode and every case of the filter. -/
def Obligations.DkPollEndsTheInvocation : Prop :=
  ∀ (s : State) (k : KeyMask), failedCheck s.cfg = none → s.phase = .dkPoll →
    exec (.dkPoll k) s = .next
      (if s.cfg.dkMode ≠ .poll then { s with phase := .idle }
       else if s.cfg.debounceWindow = 0 then
        { s with
          phase := .idle
          ind := dispatchInd s.cfg s.dkPrev (dkSample s.cfg k) s.ind
          outv := s.outv ++ dispatchEvents s.cfg s.dkPrev (dkSample s.cfg k)
          dkPrev := dkSample s.cfg k }
       else if dkSample s.cfg k ≠ s.db.candidate then
        { s with
          phase := .idle
          db := { candidate := dkSample s.cfg k, candidateStart := s.time, inProgress := true } }
       else if s.db.inProgress = true ∧ s.cfg.debounceWindow < elapsed s.cfg s.time s.db.candidateStart then
        { s with
          phase := .idle
          db := { s.db with inProgress := false }
          ind := dispatchInd s.cfg s.dkPrev s.db.candidate s.ind
          outv := s.outv ++ dispatchEvents s.cfg s.dkPrev s.db.candidate
          dkPrev := s.db.candidate }
       else { s with phase := .idle })

/-- 41_drain_task.md R162, 30_encoding.md R94: with no interrupt operation inside it, an invocation from IDLE is RX_POLL, a
BELL_END exactly after a BEL in a mode that has a bell, one DRAIN_STEP per queued entry and one more, ACTIVITY, at most one
RA_END, and DK_POLL; it runs to its end, at IDLE with the queue empty. That it ends rests on a transport that accepts every
output at once (41_drain_task.md R164; log 13, unsafe). -/
def Obligations.InvocationHasItsShapeAndEnds : Prop :=
  ∀ (s : State) (rx : Option Byte) (k : KeyMask), Inv s → s.phase = .idle →
    (∃ bell ra : Bool,
      task rx k s =
        [rxPollOf rx] ++ (if bell then [.bellEnd] else []) ++ List.replicate ((contents s).length + 1) .drainStep ++
          [.activity] ++ (if ra then [.raEnd] else []) ++ [.dkPoll k] ∧
      (bell = true ↔ rx = some 0x07#8 ∧ s.cfg.bellMode ≠ .none)) ∧
    ∃ t, execAll (task rx k s) s = .next t ∧ t.phase = .idle ∧ contents t = []

/-- 41_drain_task.md R163: only an entry that passes the parity check sets `sent`. -/
def Obligations.OnlyPassedEntriesSetSent : Prop :=
  ∀ (s t : State) (i : Instr), exec i s = .next t → s.sent = false → t.sent = true →
    i = .drainStep ∧ ∃ e, Memory.find s.slot s.outIdx = some e ∧ parityOK s.cfg e.charCode = true

/-! ### Debounce, dispatch and actions -/

/-- 00_scope.md R11, 42_debounce.md R183, R186: elapsed time counts the milliseconds since a stored time across a wrap, so
the filter accepts a candidate at the first poll more than the window after its start, never at the window itself. -/
def Obligations.DebounceAcceptsStrictlyAfterTheWindow : Prop :=
  ∀ (s : State) (d : Nat), 0 < s.cfg.debounceWindow → s.db.candidateStart < 2 ^ s.cfg.par.tw → d < 2 ^ s.cfg.par.tw →
    s.time = (s.db.candidateStart + d) % 2 ^ s.cfg.par.tw → s.db.inProgress = true →
    elapsed s.cfg s.time s.db.candidateStart = d ∧
    ((debounce s.db.candidate s).1 = some s.db.candidate ↔ s.cfg.debounceWindow + 1 ≤ d)

/-- 42_debounce.md R185: with window 0 every poll reports its sample at once, and `db` is neither read nor written. -/
def Obligations.ZeroWindowBypassesTheFilter : Prop :=
  ∀ (s : State) (x k : KeyMask) (d : DebounceState), s.cfg.debounceWindow = 0 →
    debounce x s = (some x, s) ∧
    exec (.dkPoll k) { s with db := d } = mapNext (fun t => { t with db := d }) (exec (.dkPoll k) s) ∧
    onNext (exec (.dkPoll k) s) (fun t => t.db = s.db)

/-- 43_dispatch.md R201: when the mask has not changed, no key is among the changed ones and Dispatch changes nothing. -/
def Obligations.UnchangedMaskDispatchesNothing : Prop :=
  ∀ s : State, changedKeys s.dkPrev s.dkPrev = [] ∧ dispatch s.dkPrev s = s

/-- 43_dispatch.md R202: actions run in increasing key index, each changed key once, presses and releases in one pass, and
their output events are appended in that order. -/
def Obligations.ChangedKeysRunInIndexOrder : Prop :=
  ∀ (s : State) (new : KeyMask),
    (changedKeys s.dkPrev new).Pairwise (· < ·) ∧
    (∀ i, i ∈ changedKeys s.dkPrev new ↔ i < 15 ∧ s.dkPrev.getLsbD i ≠ new.getLsbD i) ∧
    (dispatch new s).dkPrev = new ∧
    (dispatch new s).outv = s.outv ++ dispatchEvents s.cfg s.dkPrev new ∧
    dispatch new s =
      { (changedKeys s.dkPrev new).foldl (fun u i => act (actionOf s.cfg i) (new.getLsbD i) u) s with dkPrev := new }

/-- 43_dispatch.md R204: a key at or above `dkCount`, or reserved, reads 0 in every sample, is 0 in `dkPrev`, and is never
among the keys that the dispatch of a poll's sample, of the filter's candidate or of a queued entry finds changed. -/
def Obligations.UnusedKeysNeverRun : Prop :=
  ∀ (s : State) (i : Nat), Inv s → i < 15 → (s.cfg.dkCount ≤ i ∨ s.cfg.dkReservedMask.getLsbD i = true) →
    s.dkPrev.getLsbD i = false ∧
    (∀ k : KeyMask, (dkSample s.cfg k).getLsbD i = false ∧ i ∉ changedKeys s.dkPrev (dkSample s.cfg k)) ∧
    i ∉ changedKeys s.dkPrev s.db.candidate ∧
    ∀ (a : Nat) (e : Entry) (k : KeyMask), Memory.find s.slot a = some e → e.directKeys = some k →
      i ∉ changedKeys s.dkPrev k

/-- 43_dispatch.md R203: the action a dispatch runs for a press or release is the instruction its descriptor spells, on the
operand `pressed` the state holds (log 4). -/
def Obligations.DispatchRunsTheActionInstruction : Prop :=
  ∀ (s : State) (a : Action) (pressed : Bool), failedCheck s.cfg = none → a.wf = true →
    exec a.toInstr { s with actPressed := pressed } = .next { act a pressed s with actPressed := pressed }

/-- 43_dispatch.md R210: NoOp, run alone (the operand is the model's field `actPressed`, log 4). -/
def Obligations.NoOpActionDoesNothing : Prop :=
  ∀ s : State, failedCheck s.cfg = none → exec .actNoop s = .next s

/-- 43_dispatch.md R211: Break, on a press and on a release (the operand is the model's field `actPressed`, log 4). -/
def Obligations.BreakActionReportsTheEdge : Prop :=
  ∀ s : State, failedCheck s.cfg = none →
    exec .actBreak s = .next
      { s with ind := s.actPressed, outv := s.outv ++ [.ctrl s.actPressed, .ind s.actPressed] }

/-- 43_dispatch.md R212: Answerback, press only, for each of the three sequences, run alone on the operand `pressed` that the
model holds in `actPressed` (log 4). The stop on the reserved index 3 is the model's choice (log 14): 30_encoding.md R103 rejects
a configuration that holds it, and gives it no execution. -/
def Obligations.AnswerbackActionSendsItsSequence : Prop :=
  ∀ s : State, failedCheck s.cfg = none →
    exec (.actAnswerback 0#2) s = .next
      { s with outv := s.outv ++ if s.actPressed then s.cfg.ab0.map OutEvent.tx else [] } ∧
    exec (.actAnswerback 1#2) s = .next
      { s with outv := s.outv ++ if s.actPressed then s.cfg.ab1.map OutEvent.tx else [] } ∧
    exec (.actAnswerback 2#2) s = .next
      { s with outv := s.outv ++ if s.actPressed then s.cfg.ab2.map OutEvent.tx else [] } ∧
    exec (.actAnswerback 3#2) s = .refused (.unsupportedConfiguration .actionDescriptors)

/-- 43_dispatch.md R213: EscapePrefix, press only, with and without its selector (the operand is the model's field `actPressed`,
log 4). -/
def Obligations.EscapePrefixActionSendsItsForm : Prop :=
  ∀ (s : State) (selPresent : Bool) (sel lit : Byte), failedCheck s.cfg = none →
    exec (.actEscapeprefix selPresent sel lit) s = .next
      { s with
        outv := s.outv ++
          if s.actPressed = false then []
          else if selPresent then [.tx s.cfg.par.escByte, .tx sel, .tx lit]
          else [.tx s.cfg.par.escByte, .tx lit] }

/-! ### Handshake, bell, reset -/

/-- 44_handshake.md R232 to R234: ACTIVITY in phase ACT, in every mode. -/
def Obligations.ActivityByMode : Prop :=
  ∀ s : State, failedCheck s.cfg = none → s.phase = .act →
    exec .activity s = .next
      (if s.cfg.raMode ≠ .keyAck then { s with phase := .dkPoll }
       else if s.cfg.raDelay = 0 then
        if s.sent then
          { s with
            raPin := if s.cfg.raPolarity = .activeHigh then .H else .L
            outv := s.outv ++ [.ra (if s.cfg.raPolarity = .activeHigh then .H else .L)]
            phase := .raWait }
        else { s with phase := .dkPoll }
       else if s.sent then { s with hs := { pending := true, lastSendTime := s.time }, phase := .dkPoll }
       else if s.hs.pending = true ∧ s.cfg.raDelay < elapsed s.cfg s.time s.hs.lastSendTime then
        { s with
          hs := { s.hs with pending := false }
          raPin := if s.cfg.raPolarity = .activeHigh then .H else .L
          outv := s.outv ++ [.ra (if s.cfg.raPolarity = .activeHigh then .H else .L)]
          phase := .raWait }
       else { s with phase := .dkPoll })

/-- 44_handshake.md R238: RA_END in phase RA_WAIT. -/
def Obligations.RaEndReleasesThePin : Prop :=
  ∀ s : State, failedCheck s.cfg = none → s.phase = .raWait →
    exec .raEnd s = .next
      { s with
        raPin := if s.cfg.raPolarity = .activeHigh then .L else .H
        outv := s.outv ++ [.ra (if s.cfg.raPolarity = .activeHigh then .L else .H)]
        phase := .dkPoll }

/-- 44_handshake.md R240: HOSTLINE in phase IDLE: the pin follows the line in host-follow mode, nothing changes in the other
two. -/
def Obligations.HostlineMirrorsTheLine : Prop :=
  ∀ (s : State) (asserted : Bool), failedCheck s.cfg = none → s.phase = .idle →
    exec (.hostline asserted) s = .next
      (if s.cfg.raMode = .hostFollow then
        { s with
          raPin := if asserted = decide (s.cfg.raPolarity = .activeHigh) then .H else .L
          outv := s.outv ++ [.ra (if asserted = decide (s.cfg.raPolarity = .activeHigh) then .H else .L)] }
       else s)

/-- 44_handshake.md R245: BELL_END in phase BELL_WAIT. In mode none, where no run reaches BELL_WAIT and R231 defines no level,
the level is a free value of the model (log 7) and the rest happens. -/
def Obligations.BellEndReleasesThePin : Prop :=
  ∀ s : State, failedCheck s.cfg = none → s.phase = .bellWait →
    (s.cfg.bellMode = .activeLow →
      exec .bellEnd s = .next { s with bellPin := .H, outv := s.outv ++ [.bell .H], phase := .drain }) ∧
    (s.cfg.bellMode = .activeHigh →
      exec .bellEnd s = .next { s with bellPin := .L, outv := s.outv ++ [.bell .L], phase := .drain }) ∧
    (s.cfg.bellMode = .none →
      ∃ l, exec .bellEnd s = .next
        { s with bellPin := l, outv := s.outv ++ [.bell l], phase := .drain, freeCount := s.freeCount + 1 })

/-- 70_reset_and_hazards.md R290: RESET in every phase: every field of the block at its reset value, the trace of outputs and
the fault mark kept, a pin event for each pin whose level changes, the bell first. The model's own fields are kept. -/
def Obligations.ResetReinitializesTheBlock : Prop :=
  ∀ s : State, failedCheck s.cfg = none →
    ∃ bell ra : PinLevel,
      bell = (match s.cfg.bellMode with | .none => .Z | .activeLow => .H | .activeHigh => .L) ∧
      ra = (if s.cfg.raMode = .none then .Z else if s.cfg.raPolarity = .activeHigh then .L else .H) ∧
      exec .reset s = .next
        { s with
          slot := [], inIdx := 0, outIdx := 0, time := s.cfg.par.time0, phase := .idle, sent := false, ind := false,
          bellPin := bell, raPin := ra, dkPrev := 0#15,
          db := { candidate := 0#15, candidateStart := 0, inProgress := false },
          hs := { pending := false, lastSendTime := 0 }, ovf := 0#32,
          outv := s.outv ++ (if bell = s.bellPin then [] else [.bell bell]) ++ (if ra = s.raPin then [] else [.ra ra]) }

/-- 44_handshake.md R236: a pending pulse is cleared by the ACTIVITY that fires it and by RESET, and by nothing else; a sending
invocation only moves the recorded time to its own and fires nothing. -/
def Obligations.PendingPulseIsNeverAbandoned : Prop :=
  (∀ (s t : State) (i : Instr), exec i s = .next t → s.hs.pending = true → t.hs.pending = false →
    i = .reset ∨ (i = .activity ∧ t.phase = .raWait ∧ t.outv = s.outv ++ [.ra (raActive s.cfg)])) ∧
  (∀ s t : State, s.cfg.raMode = .keyAck → 0 < s.cfg.raDelay → s.sent = true → exec .activity s = .next t →
    t.hs = { pending := true, lastSendTime := s.time } ∧ t.outv = s.outv ∧ t.phase = .dkPoll)

/-- 44_handshake.md R233, for an invocation with no interrupt operation inside it (30_encoding.md R94): in immediate key-ack one
that sent an entry pulses exactly once, one that sent none does not. -/
def Obligations.ImmediateAckPulsesOncePerSendingInvocation : Prop :=
  ∀ (s t : State) (rx : Option Byte) (k : KeyMask), Inv s → s.phase = .idle → s.cfg.raMode = .keyAck → s.cfg.raDelay = 0 →
    execAll (task rx k s) s = .next t →
    ∃ new, t.outv = s.outv ++ new ∧
      (new.filter fun o => match o with | .ra _ => true | .tx _ | .ctrl _ | .bell _ | .ind _ => false) =
        if t.sent then [.ra (raActive s.cfg), .ra (raInactive s.cfg)] else []

/-! ### Whole-machine rules -/

/-- 10_state.md R59, 60_exceptions.md R270: an interrupt operation writes `slot`, `in`, `ovf` and `time` only. -/
def Obligations.InterruptOperationsWriteTheirFieldsOnly : Prop :=
  ∀ (s t : State) (i : Instr), i.agent = .interrupt → exec i s = .next t →
    t = { s with slot := t.slot, inIdx := t.inIdx, ovf := t.ovf, time := t.time }

/-- 10_state.md R59, 60_exceptions.md R270: a cooperative operation leaves `slot`, `in`, `ovf` and `time` alone. -/
def Obligations.CooperativeOperationsLeaveInterruptFields : Prop :=
  ∀ (s t : State) (i : Instr), i.agent = .cooperative → exec i s = .next t →
    t.slot = s.slot ∧ t.inIdx = s.inIdx ∧ t.ovf = s.ovf ∧ t.time = s.time

/-- 20_memory.md R76: the interrupt context neither reads nor writes `dkPrev`, `db`, `hs`, `sent`, `phase`, `ind`, `bellPin`,
`raPin` and the output trace, never writes `out`, and reads `out` through `isFull` only. -/
def Obligations.InterruptOperationsIgnoreCooperativeState : Prop :=
  ∀ (s u : State) (i : Instr), i.agent = .interrupt →
    exec i { s with dkPrev := u.dkPrev, db := u.db, hs := u.hs, sent := u.sent, phase := u.phase, ind := u.ind,
                    bellPin := u.bellPin, raPin := u.raPin, outv := u.outv } =
      mapNext (fun t => { t with dkPrev := u.dkPrev, db := u.db, hs := u.hs, sent := u.sent, phase := u.phase,
                                 ind := u.ind, bellPin := u.bellPin, raPin := u.raPin, outv := u.outv }) (exec i s) ∧
    onNext (exec i s) (fun t => t.outIdx = s.outIdx) ∧
    ∀ o : Nat, isFull { s with outIdx := o } = isFull s →
      exec i { s with outIdx := o } = mapNext (fun t => { t with outIdx := o }) (exec i s)

/-- 10_state.md R29, R30, R57: whatever runs, the output trace is only appended to, the configuration and the fault mark are
kept. -/
def Obligations.RunsOnlyAppendOutput : Prop :=
  ∀ (is : List Instr) (s t : State), execAll is s = .next t →
    s.outv <+: t.outv ∧ t.cfg = s.cfg ∧ t.fault = s.fault

/-- 40_capture_queue.md R114, 10_state.md R56: a drop changes nothing but the overflow counter, and no run depends on it. -/
def Obligations.OverflowCounterIsUnobservable : Prop :=
  (∀ (s t : State) (c : Byte) (k : KeyMask), isFull s = true → exec (.strobe c k) s = .next t → t = { s with ovf := t.ovf }) ∧
  (∀ (is : List Instr) (s : State) (x : BitVec 32),
    mapNext (fun t => { t with ovf := 0#32 }) (execAll is { s with ovf := x }) =
      mapNext (fun t => { t with ovf := 0#32 }) (execAll is s))

/-- 10_state.md R52, 70_reset_and_hazards.md R305: no run depends on `bellDuration`, `raDuration`, `strobeEdge` or
`charPullupMask`. -/
def Obligations.UnreadConfigurationFieldsChangeNothing : Prop :=
  ∀ (is : List Instr) (s : State) (d r : Nat) (e : Edge) (m : Byte),
    execAll is
        { s with cfg := { s.cfg with bellDuration := d, raDuration := r, strobeEdge := e, charPullupMask := m } } =
      mapNext
        (fun t =>
          { t with cfg := { t.cfg with bellDuration := d, raDuration := r, strobeEdge := e, charPullupMask := m } })
        (execAll is s)
end

