-- ==== Sys2Proof/Laws/Memory.lean ====
section
/-! SUPPORT. The laws of the slot space: a read after a write, the cells a write leaves alone, and the canonical form. -/

namespace Sys2Proof.Machine

theorem find_store_same (m : Memory) (a : Nat) (e : Entry) : Memory.find (Memory.store m a e) a = some e := by
  induction m with
  | nil => simp [Memory.store, Memory.find]
  | cons p rest ih =>
    obtain ⟨b, f⟩ := p
    simp only [Memory.store]
    split
    · simp [Memory.find]
    · split
      · simp [Memory.find]
      · rename_i hne
        simp [Memory.find, hne, ih]

theorem find_store_other (m : Memory) (a b : Nat) (e : Entry) (hab : b ≠ a) :
    Memory.find (Memory.store m a e) b = Memory.find m b := by
  induction m with
  | nil => simp [Memory.store, Memory.find, hab]
  | cons p rest ih =>
    obtain ⟨x, f⟩ := p
    simp only [Memory.store]
    split
    · simp [Memory.find, hab]
    · split
      · rename_i hax
        subst hax
        simp [Memory.find, hab]
      · simp [Memory.find, ih]

/-- Every property of the listed cells that the written one has is kept by a write. -/
theorem all_store (p : Nat × Entry → Bool) (m : Memory) (a : Nat) (e : Entry) (hm : m.all p = true)
    (he : p (a, e) = true) : (Memory.store m a e).all p = true := by
  induction m with
  | nil => simpa [Memory.store] using he
  | cons q rest ih =>
    obtain ⟨b, f⟩ := q
    simp only [List.all_cons, Bool.and_eq_true] at hm
    simp only [Memory.store]
    split
    · simp [he, hm.1, hm.2]
    · split
      · simp [he, hm.2]
      · simp [hm.1, ih hm.2]

/-- A write keeps the canonical form. -/
theorem store_wf (m : Memory) (a : Nat) (e : Entry) (hm : Memory.wf m = true) : Memory.wf (Memory.store m a e) = true := by
  induction m with
  | nil => simp [Memory.store, Memory.wf]
  | cons q rest ih =>
    obtain ⟨b, f⟩ := q
    simp only [Memory.wf, Bool.and_eq_true] at hm
    simp only [Memory.store]
    split
    · rename_i hlt
      simp only [Memory.wf, List.all_cons, Bool.and_eq_true, decide_eq_true_eq]
      refine ⟨⟨hlt, ?_⟩, hm.1, hm.2⟩
      have h1 := hm.1
      rw [List.all_eq_true] at h1 ⊢
      intro x hx
      have := h1 x hx
      simp only [decide_eq_true_eq] at this ⊢
      omega
    · split
      · rename_i heq
        subst heq
        simp [Memory.wf, hm.1, hm.2]
      · rename_i hlt hne
        simp only [Memory.wf, Bool.and_eq_true]
        refine ⟨all_store _ _ _ _ hm.1 ?_, ih hm.2⟩
        simp only [decide_eq_true_eq]
        omega

/-- A listed cell has what every listed cell has. -/
theorem find_all (p : Nat × Entry → Bool) (m : Memory) (hm : m.all p = true) (a : Nat) (e : Entry)
    (hf : Memory.find m a = some e) : p (a, e) = true := by
  induction m with
  | nil => simp [Memory.find] at hf
  | cons q rest ih =>
    obtain ⟨b, f⟩ := q
    simp only [List.all_cons, Bool.and_eq_true] at hm
    simp only [Memory.find] at hf
    split at hf
    · rename_i hab
      subst hab
      cases hf
      exact hm.1
    · exact ih hm.2 hf

theorem reset_slot_wf : Memory.wf State.reset.slot = true := rfl

end Sys2Proof.Machine
end

