-- ==== Sys2Proof/Laws/State.lean ====
section
/-! SUPPORT. One lemma per field per update of the state: what each named update leaves in every field. -/

namespace Sys2Proof.Machine

variable (s : State)

@[simp] theorem emit_cfg (o : OutEvent) : (emit o s).cfg = s.cfg := rfl
@[simp] theorem emit_slot (o : OutEvent) : (emit o s).slot = s.slot := rfl
@[simp] theorem emit_inIdx (o : OutEvent) : (emit o s).inIdx = s.inIdx := rfl
@[simp] theorem emit_outIdx (o : OutEvent) : (emit o s).outIdx = s.outIdx := rfl
@[simp] theorem emit_time (o : OutEvent) : (emit o s).time = s.time := rfl
@[simp] theorem emit_phase (o : OutEvent) : (emit o s).phase = s.phase := rfl
@[simp] theorem emit_sent (o : OutEvent) : (emit o s).sent = s.sent := rfl
@[simp] theorem emit_ind (o : OutEvent) : (emit o s).ind = s.ind := rfl
@[simp] theorem emit_bellPin (o : OutEvent) : (emit o s).bellPin = s.bellPin := rfl
@[simp] theorem emit_raPin (o : OutEvent) : (emit o s).raPin = s.raPin := rfl
@[simp] theorem emit_outv (o : OutEvent) : (emit o s).outv = s.outv ++ [o] := rfl
@[simp] theorem emit_dkPrev (o : OutEvent) : (emit o s).dkPrev = s.dkPrev := rfl
@[simp] theorem emit_db (o : OutEvent) : (emit o s).db = s.db := rfl
@[simp] theorem emit_hs (o : OutEvent) : (emit o s).hs = s.hs := rfl
@[simp] theorem emit_ovf (o : OutEvent) : (emit o s).ovf = s.ovf := rfl
@[simp] theorem emit_fault (o : OutEvent) : (emit o s).fault = s.fault := rfl
@[simp] theorem emit_trace (o : OutEvent) : (emit o s).trace = s.trace := rfl
@[simp] theorem emit_actPressed (o : OutEvent) : (emit o s).actPressed = s.actPressed := rfl
@[simp] theorem emit_freeCount (o : OutEvent) : (emit o s).freeCount = s.freeCount := rfl

@[simp] theorem txs_cfg (seq : List Byte) : (txs seq s).cfg = s.cfg := rfl
@[simp] theorem txs_slot (seq : List Byte) : (txs seq s).slot = s.slot := rfl
@[simp] theorem txs_inIdx (seq : List Byte) : (txs seq s).inIdx = s.inIdx := rfl
@[simp] theorem txs_outIdx (seq : List Byte) : (txs seq s).outIdx = s.outIdx := rfl
@[simp] theorem txs_time (seq : List Byte) : (txs seq s).time = s.time := rfl
@[simp] theorem txs_phase (seq : List Byte) : (txs seq s).phase = s.phase := rfl
@[simp] theorem txs_sent (seq : List Byte) : (txs seq s).sent = s.sent := rfl
@[simp] theorem txs_ind (seq : List Byte) : (txs seq s).ind = s.ind := rfl
@[simp] theorem txs_bellPin (seq : List Byte) : (txs seq s).bellPin = s.bellPin := rfl
@[simp] theorem txs_raPin (seq : List Byte) : (txs seq s).raPin = s.raPin := rfl
@[simp] theorem txs_outv (seq : List Byte) : (txs seq s).outv = s.outv ++ seq.map OutEvent.tx := rfl
@[simp] theorem txs_dkPrev (seq : List Byte) : (txs seq s).dkPrev = s.dkPrev := rfl
@[simp] theorem txs_db (seq : List Byte) : (txs seq s).db = s.db := rfl
@[simp] theorem txs_hs (seq : List Byte) : (txs seq s).hs = s.hs := rfl
@[simp] theorem txs_ovf (seq : List Byte) : (txs seq s).ovf = s.ovf := rfl
@[simp] theorem txs_fault (seq : List Byte) : (txs seq s).fault = s.fault := rfl
@[simp] theorem txs_trace (seq : List Byte) : (txs seq s).trace = s.trace := rfl
@[simp] theorem txs_actPressed (seq : List Byte) : (txs seq s).actPressed = s.actPressed := rfl
@[simp] theorem txs_freeCount (seq : List Byte) : (txs seq s).freeCount = s.freeCount := rfl

@[simp] theorem goPhase_cfg (p : Phase) : (goPhase p s).cfg = s.cfg := rfl
@[simp] theorem goPhase_slot (p : Phase) : (goPhase p s).slot = s.slot := rfl
@[simp] theorem goPhase_inIdx (p : Phase) : (goPhase p s).inIdx = s.inIdx := rfl
@[simp] theorem goPhase_outIdx (p : Phase) : (goPhase p s).outIdx = s.outIdx := rfl
@[simp] theorem goPhase_time (p : Phase) : (goPhase p s).time = s.time := rfl
@[simp] theorem goPhase_phase (p : Phase) : (goPhase p s).phase = p := rfl
@[simp] theorem goPhase_sent (p : Phase) : (goPhase p s).sent = s.sent := rfl
@[simp] theorem goPhase_ind (p : Phase) : (goPhase p s).ind = s.ind := rfl
@[simp] theorem goPhase_bellPin (p : Phase) : (goPhase p s).bellPin = s.bellPin := rfl
@[simp] theorem goPhase_raPin (p : Phase) : (goPhase p s).raPin = s.raPin := rfl
@[simp] theorem goPhase_outv (p : Phase) : (goPhase p s).outv = s.outv := rfl
@[simp] theorem goPhase_dkPrev (p : Phase) : (goPhase p s).dkPrev = s.dkPrev := rfl
@[simp] theorem goPhase_db (p : Phase) : (goPhase p s).db = s.db := rfl
@[simp] theorem goPhase_hs (p : Phase) : (goPhase p s).hs = s.hs := rfl
@[simp] theorem goPhase_ovf (p : Phase) : (goPhase p s).ovf = s.ovf := rfl
@[simp] theorem goPhase_fault (p : Phase) : (goPhase p s).fault = s.fault := rfl
@[simp] theorem goPhase_trace (p : Phase) : (goPhase p s).trace = s.trace := rfl
@[simp] theorem goPhase_actPressed (p : Phase) : (goPhase p s).actPressed = s.actPressed := rfl
@[simp] theorem goPhase_freeCount (p : Phase) : (goPhase p s).freeCount = s.freeCount := rfl

@[simp] theorem driveRa_cfg (l : PinLevel) : (driveRa l s).cfg = s.cfg := rfl
@[simp] theorem driveRa_slot (l : PinLevel) : (driveRa l s).slot = s.slot := rfl
@[simp] theorem driveRa_inIdx (l : PinLevel) : (driveRa l s).inIdx = s.inIdx := rfl
@[simp] theorem driveRa_outIdx (l : PinLevel) : (driveRa l s).outIdx = s.outIdx := rfl
@[simp] theorem driveRa_time (l : PinLevel) : (driveRa l s).time = s.time := rfl
@[simp] theorem driveRa_phase (l : PinLevel) : (driveRa l s).phase = s.phase := rfl
@[simp] theorem driveRa_sent (l : PinLevel) : (driveRa l s).sent = s.sent := rfl
@[simp] theorem driveRa_ind (l : PinLevel) : (driveRa l s).ind = s.ind := rfl
@[simp] theorem driveRa_bellPin (l : PinLevel) : (driveRa l s).bellPin = s.bellPin := rfl
@[simp] theorem driveRa_raPin (l : PinLevel) : (driveRa l s).raPin = l := rfl
@[simp] theorem driveRa_outv (l : PinLevel) : (driveRa l s).outv = s.outv ++ [.ra l] := rfl
@[simp] theorem driveRa_dkPrev (l : PinLevel) : (driveRa l s).dkPrev = s.dkPrev := rfl
@[simp] theorem driveRa_db (l : PinLevel) : (driveRa l s).db = s.db := rfl
@[simp] theorem driveRa_hs (l : PinLevel) : (driveRa l s).hs = s.hs := rfl
@[simp] theorem driveRa_ovf (l : PinLevel) : (driveRa l s).ovf = s.ovf := rfl
@[simp] theorem driveRa_fault (l : PinLevel) : (driveRa l s).fault = s.fault := rfl
@[simp] theorem driveRa_trace (l : PinLevel) : (driveRa l s).trace = s.trace := rfl
@[simp] theorem driveRa_actPressed (l : PinLevel) : (driveRa l s).actPressed = s.actPressed := rfl
@[simp] theorem driveRa_freeCount (l : PinLevel) : (driveRa l s).freeCount = s.freeCount := rfl

@[simp] theorem driveBell_cfg (l : PinLevel) : (driveBell l s).cfg = s.cfg := rfl
@[simp] theorem driveBell_slot (l : PinLevel) : (driveBell l s).slot = s.slot := rfl
@[simp] theorem driveBell_inIdx (l : PinLevel) : (driveBell l s).inIdx = s.inIdx := rfl
@[simp] theorem driveBell_outIdx (l : PinLevel) : (driveBell l s).outIdx = s.outIdx := rfl
@[simp] theorem driveBell_time (l : PinLevel) : (driveBell l s).time = s.time := rfl
@[simp] theorem driveBell_phase (l : PinLevel) : (driveBell l s).phase = s.phase := rfl
@[simp] theorem driveBell_sent (l : PinLevel) : (driveBell l s).sent = s.sent := rfl
@[simp] theorem driveBell_ind (l : PinLevel) : (driveBell l s).ind = s.ind := rfl
@[simp] theorem driveBell_bellPin (l : PinLevel) : (driveBell l s).bellPin = l := rfl
@[simp] theorem driveBell_raPin (l : PinLevel) : (driveBell l s).raPin = s.raPin := rfl
@[simp] theorem driveBell_outv (l : PinLevel) : (driveBell l s).outv = s.outv ++ [.bell l] := rfl
@[simp] theorem driveBell_dkPrev (l : PinLevel) : (driveBell l s).dkPrev = s.dkPrev := rfl
@[simp] theorem driveBell_db (l : PinLevel) : (driveBell l s).db = s.db := rfl
@[simp] theorem driveBell_hs (l : PinLevel) : (driveBell l s).hs = s.hs := rfl
@[simp] theorem driveBell_ovf (l : PinLevel) : (driveBell l s).ovf = s.ovf := rfl
@[simp] theorem driveBell_fault (l : PinLevel) : (driveBell l s).fault = s.fault := rfl
@[simp] theorem driveBell_trace (l : PinLevel) : (driveBell l s).trace = s.trace := rfl
@[simp] theorem driveBell_actPressed (l : PinLevel) : (driveBell l s).actPressed = s.actPressed := rfl
@[simp] theorem driveBell_freeCount (l : PinLevel) : (driveBell l s).freeCount = s.freeCount := rfl

/-! The status predicates read only `cfg`, `inIdx` and `outIdx`. -/

@[simp] theorem slotCount_emit (o : OutEvent) : slotCount (emit o s) = slotCount s := rfl
@[simp] theorem slotCount_txs (seq : List Byte) : slotCount (txs seq s) = slotCount s := rfl
@[simp] theorem slotCount_goPhase (p : Phase) : slotCount (goPhase p s) = slotCount s := rfl
@[simp] theorem slotCount_driveRa (l : PinLevel) : slotCount (driveRa l s) = slotCount s := rfl
@[simp] theorem slotCount_driveBell (l : PinLevel) : slotCount (driveBell l s) = slotCount s := rfl

end Sys2Proof.Machine
end

