-- ==== Sys2Proof/Laws/Ops.lean ====
section
/-! SUPPORT. What each shared operation can do, once. -/

namespace Sys2Proof.Machine

/-- A next state comes from an admitted operation's effect. -/
theorem admitted_next {a : Admission} {s t : State} {effect : State → Result} (h : admitted a s effect = .next t) :
    failedCheck s.cfg = none ∧ phaseAdmits a s.phase = true ∧ effect s = .next t := by
  unfold admitted at h
  split at h
  · cases h
  · rename_i hc
    split at h
    · rename_i hp
      exact ⟨hc, hp, h⟩
    · cases h

/-- An admitted operation is its effect. -/
theorem admitted_eq {a : Admission} {s : State} (effect : State → Result) (hc : failedCheck s.cfg = none)
    (hp : phaseAdmits a s.phase = true) : admitted a s effect = effect s := by
  simp [admitted, hc, hp]

/-- A slot read that answers is of a cell in range that holds the entry. -/
theorem memRead_ok {i : Nat} {s : State} {e : Entry} (h : memRead i s = .ok e) :
    i < slotCount s ∧ Memory.find s.slot i = some e := by
  unfold memRead at h
  split at h
  · split at h
    · cases h
      exact ⟨‹_›, ‹_›⟩
    · cases h
  · cases h

/-- A slot write that answers is to a cell in range and changes the slot space only. -/
theorem memWrite_ok {i : Nat} {e : Entry} {s t : State} (h : memWrite i e s = .ok t) :
    i < slotCount s ∧ t = { s with slot := Memory.store s.slot i e } := by
  unfold memWrite at h
  split at h
  · cases h
    exact ⟨‹_›, rfl⟩
  · cases h

/-- A next state after an operation that may fault is its effect's. -/
theorem orFault_next {α : Type} {r : Except Faulted α} {effect : α → Result} {t : State}
    (h : orFault r effect = .next t) : ∃ a, r = .ok a ∧ effect a = .next t := by
  cases r with
  | error f => cases h
  | ok a => exact ⟨a, rfl, h⟩

/-- `add` drops on a full queue, else it stores the entry and advances `in`. -/
theorem add_ok {e : Entry} {s : State} {r : AddResult × State} (h : add e s = .ok r) :
    (isFull s = true ∧ r = (.dropped, s)) ∨
      (isFull s = false ∧ s.inIdx < slotCount s ∧
        r = (.stored, { s with slot := Memory.store s.slot s.inIdx e, inIdx := (s.inIdx + 1) % slotCount s })) := by
  unfold add memWrite at h
  by_cases hf : isFull s = true
  · simp [hf] at h
    exact .inl ⟨hf, h.symm⟩
  · simp only [Bool.not_eq_true] at hf
    by_cases hi : s.inIdx < slotCount s
    · simp [hf, hi] at h
      exact .inr ⟨hf, hi, h.symm⟩
    · simp [hf, hi, raiseFault] at h

/-- With `in` in range, `add` answers. -/
theorem add_total (e : Entry) (s : State) (hi : s.inIdx < slotCount s) :
    add e s = .ok (if isFull s then (.dropped, s) else
      (.stored, { s with slot := Memory.store s.slot s.inIdx e, inIdx := (s.inIdx + 1) % slotCount s })) := by
  unfold add memWrite
  by_cases hf : isFull s = true
  · simp [hf]
  · simp only [slotCount] at hi
    simp [hf, hi, slotCount]

/-- `remove` answers the entry at `out` and advances `out`. -/
theorem remove_ok {s : State} {r : Entry × State} (h : remove s = .ok r) :
    isEmpty s = false ∧ s.outIdx < slotCount s ∧ Memory.find s.slot s.outIdx = some r.1 ∧
      r.2 = { s with outIdx := (s.outIdx + 1) % slotCount s } := by
  unfold remove memRead at h
  by_cases he : isEmpty s = true
  · simp [he, raiseFault] at h
  · simp only [Bool.not_eq_true] at he
    by_cases ho : s.outIdx < slotCount s
    · cases hf : Memory.find s.slot s.outIdx with
      | none => simp [he, ho, hf, raiseFault] at h
      | some e =>
        simp [he, ho, hf] at h
        subst h
        exact ⟨he, ho, rfl, rfl⟩
    · simp [he, ho, raiseFault] at h

/-- On a cell that holds an entry, `remove` answers it. -/
theorem remove_total {s : State} {e : Entry} (he : isEmpty s = false) (ho : s.outIdx < slotCount s)
    (hf : Memory.find s.slot s.outIdx = some e) :
    remove s = .ok (e, { s with outIdx := (s.outIdx + 1) % slotCount s }) := by
  simp [remove, memRead, he, ho, hf]

/-- One action: its events and its indicator, nothing else. -/
theorem act_eq (a : Action) (pressed : Bool) (s : State) :
    act a pressed s =
      { s with ind := actionInd a pressed s.ind, outv := s.outv ++ actionEvents s.cfg a pressed } := by
  cases a with
  | noop => simp [act, runAction, actNoOp, actionInd, actionEvents]
  | brk => simp [act, runAction, actBreak, actionInd, actionEvents, emit]
  | answerback idx =>
    cases pressed <;> simp [act, runAction, actAnswerback, actionInd, actionEvents, txs]
  | escapePrefix p sel lit =>
    cases pressed <;> cases p <;> simp [act, runAction, actEscape, actionInd, actionEvents, emit]

/-- The dispatcher's loop over any list of bit numbers. -/
theorem dispatch_loop_eq (diff new : KeyMask) (is : List Nat) (s : State) :
    is.foldl (dispatchKey diff new) s =
      { s with
        ind := (is.filter fun i => diff.getLsbD i).foldl
          (fun ind i => actionInd (actionOf s.cfg i) (new.getLsbD i) ind) s.ind
        outv := s.outv ++ (is.filter fun i => diff.getLsbD i).flatMap fun i =>
          actionEvents s.cfg (actionOf s.cfg i) (new.getLsbD i) } := by
  induction is generalizing s with
  | nil => simp
  | cons i rest ih =>
    rw [List.foldl_cons, ih]
    by_cases hd : diff.getLsbD i = true
    · simp [dispatchKey, hd, act_eq]
    · simp [dispatchKey, hd]

/-- `Dispatch`: the events and the indicator of the changed keys, and `dkPrev`. -/
theorem dispatch_eq (new : KeyMask) (s : State) :
    dispatch new s =
      { s with
        ind := dispatchInd s.cfg s.dkPrev new s.ind
        outv := s.outv ++ dispatchEvents s.cfg s.dkPrev new
        dkPrev := new } := by
  simp only [dispatch, dispatch_loop_eq]
  rfl

/-- `EmitChar` appends the entry's events. -/
theorem emitChar_eq (y : Byte) (dk : Option KeyMask) (s : State) :
    emitChar y dk s = { s with outv := s.outv ++ charEvents s.cfg y dk } := by
  cases dk with
  | none => simp [emitChar, escaped, charEvents, emit]
  | some k =>
    by_cases hm : s.cfg.escMask = 0#15
    · simp [emitChar, escaped, charEvents, emit, hm]
    · by_cases hk : k &&& s.cfg.escMask = 0#15
      · simp [emitChar, escaped, charEvents, emit, hk]
      · cases hs : s.cfg.escSelector <;> simp [emitChar, escaped, charEvents, emit, hm, hk, hs]

/-- The bell pulse's start, in a mode that has one. -/
theorem driveBellTo_some (l : PinLevel) (s : State) : driveBellTo (some l) s = driveBell l s := rfl

/-- What one poll of the debounce filter can do. -/
theorem debounce_cases (x : KeyMask) (s : State) :
    (s.cfg.debounceWindow = 0 ∧ debounce x s = (some x, s)) ∨
    (0 < s.cfg.debounceWindow ∧ x ≠ s.db.candidate ∧
      debounce x s = (none, { s with db := { candidate := x, candidateStart := s.time, inProgress := true } })) ∨
    (0 < s.cfg.debounceWindow ∧ x = s.db.candidate ∧ s.db.inProgress = true ∧
      s.cfg.debounceWindow < elapsed s.cfg s.time s.db.candidateStart ∧
      debounce x s = (some x, { s with db := { s.db with inProgress := false } })) ∨
    (0 < s.cfg.debounceWindow ∧ x = s.db.candidate ∧
      (s.db.inProgress = false ∨ elapsed s.cfg s.time s.db.candidateStart ≤ s.cfg.debounceWindow) ∧
      debounce x s = (none, s)) := by
  unfold debounce
  by_cases hw : s.cfg.debounceWindow = 0
  · exact .inl ⟨hw, by simp [hw]⟩
  · have hpos : 0 < s.cfg.debounceWindow := Nat.pos_of_ne_zero hw
    by_cases hx : x = s.db.candidate
    · by_cases hp : s.db.inProgress = true ∧ s.cfg.debounceWindow < elapsed s.cfg s.time s.db.candidateStart
      · exact .inr (.inr (.inl ⟨hpos, hx, hp.1, hp.2, by simp [hw, hx, hp.1, hp.2]⟩))
      · refine .inr (.inr (.inr ⟨hpos, hx, ?_, ?_⟩))
        · by_cases h1 : s.db.inProgress = true
          · exact .inr (Nat.le_of_not_lt fun h2 => hp ⟨h1, h2⟩)
          · exact .inl (by simpa using h1)
        · rw [if_neg hw, if_neg (by simpa using hx), if_neg hp]
    · exact .inr (.inl ⟨hpos, hx, by simp [hw, hx]⟩)

/-- Elapsed times are TW-bit numbers. -/
theorem elapsed_lt (c : Config) (now t : Nat) : elapsed c now t < timeModulus c :=
  Nat.mod_lt _ (by simp [timeModulus])

/-- A step delivers the head of the trace and performs the operation it spells. -/
theorem step_next {s t : State} (h : step s = .next t) :
    ∃ w rest i, s.trace = w :: rest ∧ decodeEvent w = .ok i ∧ exec i { s with trace := rest } = .next t := by
  unfold step fetch at h
  cases htr : s.trace with
  | nil => simp [htr] at h
  | cons w rest =>
    cases hd : decodeEvent w with
    | error r => simp [htr, hd] at h
    | ok i =>
      simp [htr, hd] at h
      exact ⟨w, rest, i, rfl, hd, h⟩

end Sys2Proof.Machine
end

