-- ==== Sys2Proof/Laws/Exec.lean ====
section
/-! SUPPORT. What each instruction can do, once: if its meaning answers a next state, then it was admitted and the next state
is one of those listed. -/

namespace Sys2Proof.Machine

variable {s t : State}

theorem execStrobe_next {c : Byte} {k : KeyMask} (h : execStrobe c k s = .next t) :
    failedCheck s.cfg = none ∧
      ((isFull s = true ∧ t = { s with ovf := s.ovf + 1#32 }) ∨
        (isFull s = false ∧ s.inIdx < slotCount s ∧
          t = { s with
                slot := Memory.store s.slot s.inIdx (captureEntry s.cfg c k)
                inIdx := (s.inIdx + 1) % slotCount s })) := by
  obtain ⟨hc, -, h⟩ := admitted_next h
  simp only [orFault] at h
  split at h
  · cases h
  · rename_i r hr
    rcases add_ok hr with ⟨hf, rfl⟩ | ⟨hf, hi, rfl⟩
    · cases h
      exact ⟨hc, .inl ⟨hf, rfl⟩⟩
    · cases h
      exact ⟨hc, .inr ⟨hf, hi, rfl⟩⟩

theorem execTick_next (h : execTick s = .next t) :
    failedCheck s.cfg = none ∧ t = { s with time := (s.time + 1) % timeModulus s.cfg } := by
  obtain ⟨hc, -, h⟩ := admitted_next h
  cases h
  exact ⟨hc, rfl⟩

theorem execHostline_next {asserted : Bool} (h : execHostline asserted s = .next t) :
    failedCheck s.cfg = none ∧ s.phase = .idle ∧
      ((s.cfg.raMode = .hostFollow ∧ t = driveRa (if asserted then raActive s.cfg else raInactive s.cfg) s) ∨
        (s.cfg.raMode ≠ .hostFollow ∧ t = s)) := by
  obtain ⟨hc, hp, h⟩ := admitted_next h
  refine ⟨hc, by simpa [phaseAdmits] using hp, ?_⟩
  split at h <;> rename_i hm <;> cases h
  · exact .inl ⟨hm, rfl⟩
  · exact .inr ⟨by simp [hm], rfl⟩
  · exact .inr ⟨by simp [hm], rfl⟩

theorem execRxPoll_next {v : Bool} {b : Byte} (h : execRxPoll v b s = .next t) :
    failedCheck s.cfg = none ∧ s.phase = .idle ∧
      ((v = true ∧ b = Config.bel ∧ ∃ l, bellActive s.cfg = some l ∧
          t = { s with sent := false, bellPin := l, outv := s.outv ++ [.bell l], phase := .bellWait }) ∨
        (¬(v = true ∧ b = Config.bel ∧ s.cfg.bellMode ≠ .none) ∧ ∃ bs : List Byte,
          bs = (if v = true ∧ b = Config.enq then s.cfg.ab0 else []) ∧
          t = { s with sent := false, outv := s.outv ++ bs.map OutEvent.tx, phase := .drain })) := by
  obtain ⟨hc, hp, h⟩ := admitted_next h
  refine ⟨hc, by simpa [phaseAdmits] using hp, ?_⟩
  have hne : ¬Config.bel = Config.enq := by decide
  by_cases he : v = true ∧ b = Config.enq
  · have hb : b ≠ Config.bel := fun hb => hne (by rw [← hb, he.2])
    simp [he, Ne.symm hne] at h
    subst h
    exact .inr ⟨by simp [hb], s.cfg.ab0, by simp [he], by simp [goPhase, txs]⟩
  · by_cases hb : v = true ∧ b = Config.bel ∧ s.cfg.bellMode ≠ .none
    · simp only [he, if_false, if_pos hb] at h
      cases h
      refine .inl ⟨hb.1, hb.2.1, ?_⟩
      cases hm : s.cfg.bellMode
      · exact absurd hm hb.2.2
      · exact ⟨.L, by simp [bellActive, hm], by simp [bellOn, bellActive, hm, driveBellTo, driveBell, emit, goPhase]⟩
      · exact ⟨.H, by simp [bellActive, hm], by simp [bellOn, bellActive, hm, driveBellTo, driveBell, emit, goPhase]⟩
    · simp only [he, if_false, if_neg hb] at h
      cases h
      exact .inr ⟨hb, [], by simp [he], by simp [goPhase]⟩

theorem execBellEnd_next (h : execBellEnd s = .next t) :
    failedCheck s.cfg = none ∧ s.phase = .bellWait ∧ t = goPhase .drain (driveBellTo (bellInactive s.cfg) s) := by
  obtain ⟨hc, hp, h⟩ := admitted_next h
  cases h
  exact ⟨hc, by simpa [phaseAdmits] using hp, rfl⟩

/-- `DRAIN_STEP`'s work on an entry, field by field. -/
theorem drainEntry_eq (e : Entry) (s : State) :
    drainEntry e s =
      { s with
        dkPrev := e.directKeys.getD s.dkPrev
        ind := match e.directKeys with
          | some k => dispatchInd s.cfg s.dkPrev k s.ind
          | none => s.ind
        outv := s.outv ++
          (match e.directKeys with
            | some k => dispatchEvents s.cfg s.dkPrev k
            | none => []) ++
          (if parityOK s.cfg e.charCode then charEvents s.cfg (xform s.cfg e.charCode) e.directKeys else [])
        sent := s.sent || parityOK s.cfg e.charCode } := by
  unfold drainEntry
  cases hk : e.directKeys <;> cases hp : parityOK s.cfg e.charCode <;> simp [hp, emitChar_eq, dispatch_eq]

theorem execDrainStep_next (h : execDrainStep s = .next t) :
    failedCheck s.cfg = none ∧ s.phase = .drain ∧
      ((isEmpty s = true ∧ t = { s with phase := .act }) ∨
        (isEmpty s = false ∧ s.outIdx < slotCount s ∧ ∃ e, Memory.find s.slot s.outIdx = some e ∧
          t = drainEntry e { s with outIdx := (s.outIdx + 1) % slotCount s })) := by
  obtain ⟨hc, hp, h⟩ := admitted_next h
  refine ⟨hc, by simpa [phaseAdmits] using hp, ?_⟩
  split at h
  · rename_i he
    cases h
    exact .inl ⟨he, rfl⟩
  · simp only [orFault] at h
    split at h
    · cases h
    · rename_i r hr
      obtain ⟨he, ho, hf, h2⟩ := remove_ok hr
      cases h
      exact .inr ⟨he, ho, r.1, hf, by rw [h2]⟩

theorem execActivity_next (h : execActivity s = .next t) :
    failedCheck s.cfg = none ∧ s.phase = .act ∧
      (t = { s with phase := .dkPoll } ∨
        (s.cfg.raMode = .keyAck ∧ s.cfg.raDelay = 0 ∧ s.sent = true ∧ t = goPhase .raWait (raOn s)) ∨
        (s.cfg.raMode = .keyAck ∧ 0 < s.cfg.raDelay ∧ s.sent = true ∧
          t = { s with hs := { pending := true, lastSendTime := s.time }, phase := .dkPoll }) ∨
        (s.cfg.raMode = .keyAck ∧ 0 < s.cfg.raDelay ∧ s.sent = false ∧ s.hs.pending = true ∧
          s.cfg.raDelay < elapsed s.cfg s.time s.hs.lastSendTime ∧
          t = goPhase .raWait (raOn { s with hs := { s.hs with pending := false } }))) := by
  obtain ⟨hc, hp, h⟩ := admitted_next h
  refine ⟨hc, by simpa [phaseAdmits] using hp, ?_⟩
  by_cases hm : s.cfg.raMode = .keyAck
  · simp only [hm, ne_eq, not_true_eq_false, if_false] at h
    by_cases hd : s.cfg.raDelay = 0
    · simp only [hd, if_true] at h
      cases hs : s.sent <;> simp only [hs, if_true, Bool.false_eq_true, if_false] at h <;> cases h
      · exact .inl (by simp [goPhase, hs])
      · exact .inr (.inl ⟨hm, hd, rfl, rfl⟩)
    · simp only [hd, if_false] at h
      have hpos := Nat.pos_of_ne_zero hd
      cases hs : s.sent <;> simp only [hs, if_true, Bool.false_eq_true, if_false] at h
      · split at h
        · rename_i hq
          cases h
          exact .inr (.inr (.inr ⟨hm, hpos, rfl, hq.1, hq.2, rfl⟩))
        · cases h
          exact .inl (by simp [goPhase, hs])
      · cases h
        exact .inr (.inr (.inl ⟨hm, hpos, rfl, rfl⟩))
  · simp only [ne_eq, hm, not_false_eq_true, if_true] at h
    cases h
    exact .inl (by simp [goPhase])

theorem execRaEnd_next (h : execRaEnd s = .next t) :
    failedCheck s.cfg = none ∧ s.phase = .raWait ∧ t = goPhase .dkPoll (driveRa (raInactive s.cfg) s) := by
  obtain ⟨hc, hp, h⟩ := admitted_next h
  cases h
  exact ⟨hc, by simpa [phaseAdmits] using hp, rfl⟩

theorem execDkPoll_next {k : KeyMask} (h : execDkPoll k s = .next t) :
    failedCheck s.cfg = none ∧ s.phase = .dkPoll ∧
      (t = { s with phase := .idle } ∨
        (s.cfg.dkMode = .poll ∧ s.cfg.debounceWindow = 0 ∧
          t = goPhase .idle (dispatch (dkSample s.cfg k) s)) ∨
        (s.cfg.dkMode = .poll ∧ 0 < s.cfg.debounceWindow ∧ dkSample s.cfg k ≠ s.db.candidate ∧
          t = { s with
                phase := .idle
                db := { candidate := dkSample s.cfg k, candidateStart := s.time, inProgress := true } }) ∨
        (s.cfg.dkMode = .poll ∧ 0 < s.cfg.debounceWindow ∧ dkSample s.cfg k = s.db.candidate ∧ s.db.inProgress = true ∧
          t = goPhase .idle (dispatch s.db.candidate { s with db := { s.db with inProgress := false } }))) := by
  obtain ⟨hc, hp, h⟩ := admitted_next h
  refine ⟨hc, by simpa [phaseAdmits] using hp, ?_⟩
  split at h <;> rename_i hm
  · cases h
    exact .inl rfl
  · cases h
    exact .inl rfl
  · rcases debounce_cases (dkSample s.cfg k) s with ⟨h1, h2⟩ | ⟨h1, h2, h3⟩ | ⟨h1, h2, h3, h4, h5⟩ | ⟨h1, h2, h3, h4⟩
    · rw [h2] at h
      cases h
      exact .inr (.inl ⟨hm, h1, rfl⟩)
    · rw [h3] at h
      cases h
      exact .inr (.inr (.inl ⟨hm, h1, h2, rfl⟩))
    · rw [h5] at h
      cases h
      exact .inr (.inr (.inr ⟨hm, h1, h2, h3, by rw [h2]⟩))
    · rw [h4] at h
      cases h
      exact .inl rfl

theorem execReset_next (h : execReset s = .next t) :
    failedCheck s.cfg = none ∧ t = { reinitialize s with outv := s.outv ++ resetEvents s } := by
  obtain ⟨hc, -, h⟩ := admitted_next h
  cases h
  exact ⟨hc, rfl⟩

theorem execActNoop_next (h : execActNoop s = .next t) : failedCheck s.cfg = none ∧ t = s := by
  obtain ⟨hc, -, h⟩ := admitted_next h
  cases h
  exact ⟨hc, rfl⟩

theorem execActBreak_next (h : execActBreak s = .next t) :
    failedCheck s.cfg = none ∧
      t = { s with ind := s.actPressed, outv := s.outv ++ [.ctrl s.actPressed, .ind s.actPressed] } := by
  obtain ⟨hc, -, h⟩ := admitted_next h
  cases h
  exact ⟨hc, by simp [actBreak, emit]⟩

theorem execActAnswerback_next {idx : BitVec 2} (h : execActAnswerback idx s = .next t) :
    failedCheck s.cfg = none ∧ answerbackIndexOk idx = true ∧
      ∃ bs : List Byte, bs = (if s.actPressed then answerback s.cfg idx else []) ∧
        t = { s with outv := s.outv ++ bs.map OutEvent.tx } := by
  obtain ⟨hc, -, h⟩ := admitted_next h
  split at h
  · rename_i hi
    cases h
    refine ⟨hc, hi, _, rfl, ?_⟩
    unfold actAnswerback
    split
    · rfl
    · simp
  · cases h

theorem execActEscapeprefix_next {selPresent : Bool} {sel lit : Byte}
    (h : execActEscapeprefix selPresent sel lit s = .next t) :
    failedCheck s.cfg = none ∧
      t = { s with outv := s.outv ++ actionEvents s.cfg (.escapePrefix selPresent sel lit) s.actPressed } := by
  obtain ⟨hc, -, h⟩ := admitted_next h
  cases h
  refine ⟨hc, ?_⟩
  unfold actEscape actionEvents
  split
  · split <;> simp_all [emit]
  · simp

end Sys2Proof.Machine
end

