-- ==== Sys2Proof/Laws/PerInstr.lean ====
section
/-! SUPPORT. Per instruction: its word lies in its opcode-table row, whatever the operands (30_encoding.md R90). -/

namespace Sys2Proof.Laws.TableMatch

/-- The op and reserved bits of the instruction's word are those of its row. -/
def Statement (i : Instr) : Prop := encode i &&& i.tableMask = i.tableMatch

theorem strobe (c : Byte) (k : KeyMask) : Statement (.strobe c k) := by
  unfold Statement encode place Instr.tableMask Instr.tableMatch
  ext i hi
  interval_cases i <;> simp

theorem tick : Statement .tick := by unfold Statement; decide

theorem hostline (asserted : Bool) : Statement (.hostline asserted) := by
  cases asserted <;> (unfold Statement; decide)

theorem rxPoll (v : Bool) (b : Byte) : Statement (.rxPoll v b) := by
  unfold Statement encode place Instr.tableMask Instr.tableMatch
  ext i hi
  interval_cases i <;> simp

theorem bellEnd : Statement .bellEnd := by unfold Statement; decide

theorem drainStep : Statement .drainStep := by unfold Statement; decide

theorem activity : Statement .activity := by unfold Statement; decide

theorem raEnd : Statement .raEnd := by unfold Statement; decide

theorem dkPoll (k : KeyMask) : Statement (.dkPoll k) := by
  unfold Statement encode place Instr.tableMask Instr.tableMatch
  ext i hi
  interval_cases i <;> simp

theorem reset : Statement .reset := by unfold Statement; decide

theorem actNoop : Statement .actNoop := by unfold Statement; decide

theorem actBreak : Statement .actBreak := by unfold Statement; decide

theorem actAnswerback (idx : BitVec 2) : Statement (.actAnswerback idx) := by
  revert idx
  unfold Statement
  decide

theorem actEscapeprefix (selPresent : Bool) (sel lit : Byte) : Statement (.actEscapeprefix selPresent sel lit) := by
  unfold Statement encode place Instr.tableMask Instr.tableMatch
  ext i hi
  interval_cases i <;> simp

end Sys2Proof.Laws.TableMatch
end

