-- ==== Sys2Proof/Laws/Queue.lean ====
section
/-! SUPPORT. What adding and removing an entry do to the queue's contents (40_capture_queue.md R115 to R118). -/

namespace Sys2Proof.Machine

/-- A number below twice the modulus is reduced by at most one subtraction. -/
theorem mod_of_lt_twice {a n : Nat} (h : a < 2 * n) : a % n = if a < n then a else a - n := by
  split
  · exact Nat.mod_eq_of_lt ‹_›
  · rw [Nat.mod_eq_sub_mod (by omega), Nat.mod_eq_of_lt (by omega)]

/-- The contents depend on the slots, the two indices and N only. -/
theorem contents_congr {s t : State} (hslot : t.slot = s.slot) (hin : t.inIdx = s.inIdx) (hout : t.outIdx = s.outIdx)
    (hcfg : t.cfg = s.cfg) : contents t = contents s := by
  simp [contents, queueCount, slotCount, hslot, hin, hout, hcfg]

theorem contents_length (s : State) : (contents s).length = queueCount s := by simp [contents]

/-- Storing at `in` on a queue with room appends the entry. -/
theorem contents_add {s : State} (e : Entry) (hn : 2 ≤ slotCount s) (hi : s.inIdx < slotCount s)
    (ho : s.outIdx < slotCount s) (hf : isFull s = false) :
    contents { s with slot := Memory.store s.slot s.inIdx e, inIdx := (s.inIdx + 1) % slotCount s } =
      contents s ++ [some e] := by
  have hcount : queueCount { s with slot := Memory.store s.slot s.inIdx e, inIdx := (s.inIdx + 1) % slotCount s } =
      queueCount s + 1 := by
    simp only [queueCount, slotCount, isFull, beq_eq_false_iff_ne] at *
    rw [mod_of_lt_twice (a := s.inIdx + 1) (by omega)] at hf ⊢
    rw [mod_of_lt_twice (a := s.inIdx + s.cfg.par.n - s.outIdx) (by omega)]
    split at hf <;> rename_i hw
    · rw [if_pos hw, mod_of_lt_twice (by omega)]
      split <;> split <;> omega
    · rw [if_neg hw, mod_of_lt_twice (by omega)]
      split <;> split <;> omega
  have hother : ∀ j, j < queueCount s → (s.outIdx + j) % slotCount s ≠ s.inIdx := by
    intro j hj
    simp only [queueCount, slotCount] at *
    rw [mod_of_lt_twice (by omega)] at hj
    split at hj <;> rw [mod_of_lt_twice (by omega)] <;> split <;> omega
  have hlast : (s.outIdx + queueCount s) % slotCount s = s.inIdx := by
    simp only [queueCount, slotCount] at *
    rw [mod_of_lt_twice (a := s.inIdx + s.cfg.par.n - s.outIdx) (by omega)]
    split <;> rw [mod_of_lt_twice (by omega)] <;> split <;> omega
  unfold contents
  rw [hcount, List.range_succ, List.map_append]
  congr 1
  · apply List.map_congr_left
    intro j hj
    exact find_store_other _ _ _ _ (hother j (List.mem_range.mp hj))
  · show [Memory.find (Memory.store s.slot s.inIdx e) ((s.outIdx + queueCount s) % slotCount s)] = _
    rw [hlast, find_store_same]

/-- Advancing `out` on a queue that is not empty drops the oldest entry. -/
theorem contents_remove {s : State} (hi : s.inIdx < slotCount s) (ho : s.outIdx < slotCount s) (he : isEmpty s = false) :
    contents { s with outIdx := (s.outIdx + 1) % slotCount s } = (contents s).tail := by
  have hcount : queueCount s = queueCount { s with outIdx := (s.outIdx + 1) % slotCount s } + 1 := by
    simp only [queueCount, slotCount, isEmpty, beq_eq_false_iff_ne] at *
    rw [mod_of_lt_twice (a := s.outIdx + 1) (by omega), mod_of_lt_twice (a := s.inIdx + s.cfg.par.n - s.outIdx) (by omega)]
    split <;> split <;> rw [mod_of_lt_twice (by omega)] <;> split <;> omega
  unfold contents
  rw [hcount, List.range_succ_eq_map, List.map_cons, List.tail_cons, List.map_map]
  apply List.map_congr_left
  intro j _
  show Memory.find s.slot (((s.outIdx + 1) % s.cfg.par.n + j) % s.cfg.par.n) =
    Memory.find s.slot ((s.outIdx + (j + 1)) % s.cfg.par.n)
  rw [Nat.mod_add_mod, Nat.add_assoc, Nat.add_comm 1 j]

end Sys2Proof.Machine
end

