-- ==== Sys2Proof/Tests/Slice0.lean ====
section
/-! SUPPORT. The model's own tests. A decoder test writes its word field by field from the layouts of 30_encoding.md R82 to
R88 and R101 to R104; a step test takes its expected values from 95_test_vectors.md or counts them by hand from the rule it
names; a witness shows a state that meets the hypotheses of the obligation it is named after. -/

namespace Sys2Proof.Tests

open Sys2Proof Sys2Proof.Machine

/-! ### Well-formedness: an ill-formed term for each check -/

theorem test_wf_refuses_byte_without_valid : (Instr.rxPoll false 0x05#8).wf = false := by decide
theorem test_wf_refuses_answerback_three : (Instr.actAnswerback 3#2).wf = false := by decide
theorem test_wf_refuses_selector_without_flag : (Instr.actEscapeprefix false 0x4F#8 0x50#8).wf = false := by decide
theorem test_action_wf_refuses_answerback_three : (Action.answerback 3#2).wf = false := by decide
theorem test_action_wf_refuses_selector_without_flag : (Action.escapePrefix false 0x4F#8 0x50#8).wf = false := by decide

/-! ### Decoding: every constructor's word, bit by bit -/

theorem test_decode_strobe :
    decodeEvent (0b0001#4 ++ 0b00000#5 ++ 0b100000000000010#15 ++ 0b01000001#8) =
      .ok (.strobe 0x41#8 0x4002#15) := by decide
theorem test_decode_tick : decodeEvent (0b0010#4 ++ 0#28) = .ok .tick := by decide
theorem test_decode_hostline : decodeEvent (0b0011#4 ++ 0#27 ++ 0b1#1) = .ok (.hostline true) := by decide
theorem test_decode_rxPoll :
    decodeEvent (0b0100#4 ++ 0#19 ++ 0b1#1 ++ 0b00000101#8) = .ok (.rxPoll true 0x05#8) := by decide
theorem test_decode_rxPoll_none :
    decodeEvent (0b0100#4 ++ 0#19 ++ 0b0#1 ++ 0b00000000#8) = .ok (.rxPoll false 0x00#8) := by decide
theorem test_decode_bellEnd : decodeEvent (0b0101#4 ++ 0#28) = .ok .bellEnd := by decide
theorem test_decode_drainStep : decodeEvent (0b0110#4 ++ 0#28) = .ok .drainStep := by decide
theorem test_decode_activity : decodeEvent (0b0111#4 ++ 0#28) = .ok .activity := by decide
theorem test_decode_raEnd : decodeEvent (0b1000#4 ++ 0#28) = .ok .raEnd := by decide
theorem test_decode_dkPoll :
    decodeEvent (0b1001#4 ++ 0#13 ++ 0b100000000000001#15) = .ok (.dkPoll 0x4001#15) := by decide
theorem test_decode_reset : decodeEvent (0b1111#4 ++ 0#28) = .ok .reset := by decide
theorem test_decode_actNoop : decodeAction (0#30 ++ 0b00#2) = .ok .noop := by decide
theorem test_decode_actBreak : decodeAction (0#30 ++ 0b01#2) = .ok .brk := by decide
theorem test_decode_actAnswerback : decodeAction (0#28 ++ 0b01#2 ++ 0b10#2) = .ok (.answerback 1#2) := by decide
theorem test_decode_actEscapeprefix :
    decodeAction (0#8 ++ 0b01010000#8 ++ 0b01001111#8 ++ 0#3 ++ 0b1#1 ++ 0#2 ++ 0b11#2) =
      .ok (.escapePrefix true 0x4F#8 0x50#8) := by decide

/-- 95_test_vectors.md section 2.1: the illegal words. -/
theorem test_illegal_words :
    [0x00000000#32, 0xA0000000#32, 0xE0000000#32, 0x20000001#32, 0x10800000#32, 0x1FFFFFFF#32, 0x30000002#32, 0x40000005#32,
      0x40000200#32, 0x90008000#32, 0xF0000001#32].all (fun w => (decodeEvent w).toOption.isNone) = true := by decide

/-- 95_test_vectors.md section 2.5: the rejected descriptors, by name. -/
theorem test_rejected_descriptors :
    decodeAction 0x0000000E#32 = .error .answerbackIndex ∧ decodeAction 0x00000004#32 = .error .reservedBits ∧
      decodeAction 0x00000005#32 = .error .reservedBits ∧ decodeAction 0x00004F03#32 = .error .selectorWithoutFlag ∧
      decodeAction 0x01000003#32 = .error .reservedBits := by decide

/-- 30_encoding.md R93: the trace syntax beside its words. -/
theorem test_encode_trace_syntax :
    encode (.strobe 0x41#8 0#15) = 0x10000041#32 ∧ encode (.rxPoll true 0x05#8) = 0x40000105#32 ∧
      encode (.dkPoll 1#15) = 0x90000001#32 ∧ encode (.hostline true) = 0x30000001#32 ∧
      encode (.actEscapeprefix true 0x4F#8 0x50#8) = 0x00504F13#32 := by decide

/-- 30_encoding.md R93, R94: four lines of a trace. -/
theorem test_parse_trace_lines :
    parseLine "STROBE c=0x41 k=0x0000 ; captured".toList = some (some (.op (.strobe 0x41#8 0#15))) ∧
      parseLine "RX_POLL none".toList = some (some (.op (.rxPoll false 0#8))) ∧
      parseLine "TICKS 12".toList = some (some (.ticks 12)) ∧
      parseLine "TASK rx=0x05".toList = some (some (.task (some 0x05#8) 0#15)) := by decide

/-! ### Small configurations and states -/

/-- Strobe mode, two keys, key 2 a Break, escape on key 1 (95_test_vectors.md P4, without its handshake). -/
def strobeKeys : Config :=
  { Config.baseline with dkCount := 2, dkMode := .strobe, escMask := 1#15, action := [0x00000000#32, 0x00000001#32] }

/-- Poll mode, three keys, window 5 (95_test_vectors.md section 2.4), keys bound to Answerback(1), Break and EscapePrefix. -/
def polledKeys : Config :=
  { Config.baseline with dkCount := 3, dkMode := .poll, debounceWindow := 5,
                         action := [0x00000006#32, 0x00000001#32, 0x00504F13#32], ab1 := [0x31#8] }

/-- The same with no window. -/
def polledKeysAtOnce : Config := { polledKeys with debounceWindow := 0 }

/-- Immediate key-ack, active-low, with a bell and an answer-back. -/
def immediateAck : Config :=
  { Config.baseline with raMode := .keyAck, bellMode := .activeLow, ab0 := [0x4B#8] }

/-- Delayed key-ack, active-high, delay 3 (95_test_vectors.md section 2.6). -/
def delayedAck : Config :=
  { Config.baseline with raMode := .keyAck, raPolarity := .activeHigh, raDelay := 3, bellMode := .activeHigh }

/-- Host-follow, active-low. -/
def hostFollow : Config := { Config.baseline with raMode := .hostFollow }

/-- The power-up state of a configuration, moved to a phase. -/
def inPhase (c : Config) (p : Phase) : State := { State.powerUp c with phase := p }

/-- A state with the one entry `e` queued, in phase DRAIN. -/
def holding (c : Config) (e : Entry) : State := { inPhase c .drain with slot := [(0, e)], inIdx := 1 }

/-- A full queue of two slots, its one entry in slot 1. -/
def fullQueue : State :=
  { State.powerUp { Config.baseline with par := { Params.reference with n := 2 } } with
    slot := [(1, { charCode := 0x41#8, directKeys := none })], outIdx := 1 }

/-- A property of the next state, where a fault or a refusal has none. -/
def after (r : Result) (p : State → Bool) : Bool :=
  match r with
  | .next t => p t
  | .fault _ => false
  | .refused _ => false

/-! ### One step of each operation -/

/-- 95_test_vectors.md section 2.2: 0x10000241 with `dkCount = 3`, strobe mode, inversion 7 stores `some 5`. -/
theorem test_strobe_samples_keys :
    after (exec (.strobe 0x41#8 2#15) (State.powerUp { strobeKeys with dkCount := 3, dkInvertMask := 7#15 }))
      (fun t => Memory.find t.slot 0 == some { charCode := 0x41#8, directKeys := some 5#15 } && t.inIdx == 1) = true := by
  decide

/-- 95_test_vectors.md section 2.2: on a full queue only `ovf` changes. -/
theorem test_strobe_on_full_queue_counts :
    exec (.strobe 0x42#8 0#15) fullQueue = .next { fullQueue with ovf := 1#32 } := by rfl

/-- 95_test_vectors.md section 2.2: TW = 32 wraps. -/
theorem test_tick_wraps :
    after (exec .tick { State.reset with time := 0xFFFFFFFF }) (fun t => t.time == 0) = true := by decide

/-- 95_test_vectors.md section 2.6: host-follow, active-low. -/
theorem test_hostline_asserted :
    after (exec (.hostline true) (inPhase hostFollow .idle)) (fun t => t.raPin == .L && t.outv == [.ra .L]) = true := by decide
theorem test_hostline_released :
    after (exec (.hostline false) (inPhase hostFollow .idle)) (fun t => t.raPin == .H && t.outv == [.ra .H]) = true := by decide

/-- 95_test_vectors.md section 2.3: ENQ and BEL. -/
theorem test_rxPoll_enq :
    after (exec (.rxPoll true 0x05#8) (inPhase immediateAck .idle))
      (fun t => t.outv == [.tx 0x4B#8] && t.phase == .drain && !t.sent) = true := by decide
theorem test_rxPoll_bel :
    after (exec (.rxPoll true 0x07#8) (inPhase immediateAck .idle))
      (fun t => t.outv == [.bell .L] && t.phase == .bellWait && t.bellPin == .L) = true := by decide

/-- 95_test_vectors.md section 2.6: BELL_END gives `BELL(H)` in active-low mode. -/
theorem test_bellEnd :
    after (exec .bellEnd (inPhase immediateAck .bellWait)) (fun t => t.outv == [.bell .H] && t.phase == .drain) = true := by
  decide

/-- 95_test_vectors.md section 2.3: the sample is dispatched before the parity drop. -/
theorem test_drainStep_dispatches_before_parity :
    after
      (exec .drainStep
        (holding { strobeKeys with dkCount := 1, parityMode := .even, action := [1#32] }
          { charCode := 0x01#8, directKeys := some 1#15 }))
      (fun t => t.outv == [.ctrl true, .ind true] && t.dkPrev == 1#15 && t.ind && !t.sent && t.outIdx == 1) = true := by decide

/-- 95_test_vectors.md P4: key 1 held, so the character is escaped; NoOp emits nothing. -/
theorem test_drainStep_escapes :
    after (exec .drainStep (holding strobeKeys { charCode := 0x61#8, directKeys := some 1#15 }))
      (fun t => t.outv == [.tx 0x1B#8, .tx 0x61#8] && t.sent && t.phase == .drain) = true := by decide

/-- 95_test_vectors.md section 2.6: delay 3, elapsed 3 and 4 (active-high). -/
theorem test_activity_waits_at_the_delay :
    after (exec .activity { inPhase delayedAck .act with time := 10, hs := { pending := true, lastSendTime := 7 } })
      (fun t => t.outv == [] && t.phase == .dkPoll && t.hs.pending) = true := by decide
theorem test_activity_pulses_after_the_delay :
    after (exec .activity { inPhase delayedAck .act with time := 11, hs := { pending := true, lastSendTime := 7 } })
      (fun t => t.outv == [.ra .H] && t.phase == .raWait && !t.hs.pending) = true := by decide

/-- 95_test_vectors.md section 2.6: RA_END gives `RA(L)` with active-high polarity. -/
theorem test_raEnd :
    after (exec .raEnd (inPhase delayedAck .raWait)) (fun t => t.outv == [.ra .L] && t.phase == .dkPoll) = true := by decide

/-- 95_test_vectors.md section 2.4: elapsed 5 does not accept; across the wrap elapsed 6 does. -/
theorem test_dkPoll_waits_at_the_window :
    after
      (exec (.dkPoll 1#15)
        { inPhase polledKeys .dkPoll with
          time := 15, db := { candidate := 1#15, candidateStart := 10, inProgress := true } })
      (fun t => t.outv == [] && t.dkPrev == 0#15 && t.phase == .idle && t.db.inProgress) = true := by decide
theorem test_dkPoll_accepts_across_the_wrap :
    after
      (exec (.dkPoll 2#15)
        { inPhase polledKeys .dkPoll with
          time := 4, db := { candidate := 2#15, candidateStart := 0xFFFFFFFE, inProgress := true } })
      (fun t => t.outv == [.ctrl true, .ind true] && t.dkPrev == 2#15 && t.phase == .idle && !t.db.inProgress) = true := by
  decide

/-- 95_test_vectors.md section 2.7: both pins active, bell first. -/
theorem test_reset_releases_both_pins :
    after (exec .reset { inPhase immediateAck .raWait with bellPin := .L, raPin := .L, ind := true, ovf := 3#32, time := 500 })
      (fun t => t.outv == [.bell .H, .ra .H] && t.phase == .idle && !t.ind && t.ovf == 0#32 && t.time == 0) = true := by
  decide

/-- 95_test_vectors.md section 2.5: the actions, pressed and released. -/
theorem test_actNoop : exec .actNoop { State.reset with actPressed := true } = .next { State.reset with actPressed := true } :=
  by rfl
theorem test_actBreak_released :
    after (exec .actBreak { State.reset with ind := true }) (fun t => t.outv == [.ctrl false, .ind false] && !t.ind) = true := by
  decide
theorem test_actAnswerback_pressed :
    after (exec (.actAnswerback 1#2) { State.powerUp polledKeys with actPressed := true })
      (fun t => t.outv == [.tx 0x31#8] && !t.sent) = true := by decide
theorem test_actEscapeprefix_pressed :
    after (exec (.actEscapeprefix true 0x4F#8 0x50#8) { State.reset with actPressed := true })
      (fun t => t.outv == [.tx 0x1B#8, .tx 0x4F#8, .tx 0x50#8]) = true := by decide
theorem test_actEscapeprefix_released :
    after (exec (.actEscapeprefix true 0x4F#8 0x50#8) State.reset) (fun t => t.outv == []) = true := by decide

/-- 95_test_vectors.md section 2.1: words refused out of phase. -/
theorem test_out_of_phase :
    exec .drainStep State.reset = .refused .outOfPhase ∧ exec (.rxPoll false 0#8) (inPhase Config.baseline .drain) = .refused .outOfPhase ∧
      exec .raEnd (inPhase Config.baseline .dkPoll) = .refused .outOfPhase := ⟨rfl, rfl, rfl⟩

/-- 95_test_vectors.md section 2.5: keys 2 pressed and 3 released, in that order. -/
theorem test_changed_keys : changedKeys 0b101#15 0b011#15 = [1, 2] := by decide

/-- 95_test_vectors.md section 2.2: `DkSample` with the reserved bit, and on the second bus. -/
theorem test_dkSample :
    dkSample { Config.baseline with dkCount := 4, dkReservedMask := 4#15 } 0x7FFF#15 = 0x000B#15 ∧
      dkSample { Config.baseline with dkCount := 9 } 0x0100#15 = 0x0100#15 := by decide

/-- 95_test_vectors.md section 2.3, V-PAR and V-XF. -/
theorem test_parity_and_transform :
    parityOK { Config.baseline with parityMode := .even } 0xC1#8 = false ∧
      parityOK { Config.baseline with parityMode := .odd } 0x80#8 = true ∧
      xform { Config.baseline with invert := true, charMask := 0x0F#8 } 0xA5#8 = 0x0A#8 := by decide

/-! ### Configuration (95_test_vectors.md section 2.7) -/

/-- Packed words of a configuration with nothing set but the mask 0x7F. -/
def plainWords : ConfigWords :=
  { par := Params.reference, cfg0 := 0x0000007F#32, cfg1 := 0#32, cfg2 := 0#32, cfg3 := 0, cfg4 := 0, bellDuration := 0,
    raDuration := 0, act := [], ab0 := [], ab1 := [], ab2 := [] }

/-- The check that packed words fail. -/
def rejection (w : ConfigWords) : Option ConfigCheck :=
  match loadConfig w with
  | .ok _ => none
  | .error c => some c

theorem test_config_rejections :
    rejection { plainWords with cfg0 := 0x0006007F#32 } = some .bellMode ∧
      rejection { plainWords with cfg0 := 0x0000037F#32 } = some .parityMode ∧
      rejection { plainWords with cfg0 := 0x0000807F#32 } = some .dkMode ∧
      rejection { plainWords with cfg0 := 0x0000207F#32 } = some .dkMode ∧
      rejection { plainWords with cfg0 := 0x0000A07F#32, cfg1 := 0x00018000#32 } = some .dkReservedMask ∧
      rejection { plainWords with cfg0 := 0x0000A07F#32, cfg1 := 0x00080000#32 } = some .dkReservedMask ∧
      rejection { plainWords with act := [0#32, 0x0000000E#32] } = some .actionDescriptors ∧
      rejection { plainWords with cfg0 := 0x5B00007F#32 } = some .reservedBits ∧
      rejection { plainWords with cfg0 := 0x0018007F#32 } = some .raMode ∧
      rejection { plainWords with par := { Params.reference with abMax := 1 }, ab2 := [0#8, 0#8] } = some .capacity ∧
      rejection plainWords = none := by decide

/-- 70_reset_and_hazards.md R293 check 2, which the packed form cannot break: a record can. -/
theorem test_config_rejects_sixteen_keys : failedCheck { strobeKeys with dkCount := 16 } = some .dkCount := by decide

/-! ### From reset -/

/-- A placed event word and a placed descriptor both run as the first step (95_test_vectors.md section 2.5: a Break press). -/
theorem test_placed_words_run :
    after (step (State.reset.withFetchWord 32 0x10000041)) (fun t => t.inIdx == 1) = true ∧
      after (step (State.reset.withFetchWord 32 0x60000000)) (fun t => t.phase == .act) = true ∧
      after (step (State.reset.withFetchWord 32 0x00000001)) (fun t => t.outv == [.ctrl true, .ind true]) = true := by decide

theorem test_reset_waits_for_a_trace : step State.reset = .refused .endOfTrace := rfl

/-! ### Witnesses: states that meet the hypotheses of each obligation that has some -/

/-- The answer is a next state. -/
def Completes (r : Result) : Prop := ∃ t, r = .next t

/-- Two keys' entries in a strobe-mode queue that wraps (slots 15 and 0), in phase DRAIN, key 2 held. -/
def wrappedQueue : State :=
  { inPhase strobeKeys .drain with
    slot := [(0, { charCode := 0x62#8, directKeys := some 1#15 }), (15, { charCode := 0x61#8, directKeys := some 3#15 })]
    inIdx := 1, outIdx := 15, dkPrev := 2#15, ind := true, outv := [.ctrl true, .ind true], time := 7
    trace := [0x60000000#32, 0x10000341#32, 0xF0000000#32] }

theorem wrappedQueue_inv : Inv wrappedQueue := by constructor <;> decide

theorem fullQueue_inv : Inv fullQueue := by constructor <;> decide

/-- A debounce in progress in poll mode. -/
def debouncing : State :=
  { inPhase polledKeys .dkPoll with
    time := 16, dkPrev := 4#15, db := { candidate := 1#15, candidateStart := 10, inProgress := true }, trace := [0x90000001#32] }

theorem debouncing_inv : Inv debouncing := by constructor <;> decide

/-- Immediate key-ack with a bell, one entry queued, at IDLE. -/
def ackReady : State :=
  { inPhase immediateAck .idle with slot := [(0, { charCode := 0x41#8, directKeys := none })], inIdx := 1 }

theorem ackReady_inv : Inv ackReady := by constructor <;> decide

theorem reset_inv : Inv State.reset := by constructor <;> decide

theorem witness_IllegalWordsAreRefused :
    { State.reset with trace := [0x00000000#32, 0x20000000#32] }.trace = 0x00000000#32 :: [0x20000000#32] ∧
      step { State.reset with trace := [0x00000000#32, 0x20000000#32] } = .refused .illegalEncoding ∧
      step { State.reset with trace := [0x60000000#32] } = .refused .outOfPhase := ⟨rfl, rfl, rfl⟩

theorem witness_EventEncodingRoundTrip :
    (Instr.rxPoll true 0x05#8).space = .eventWord ∧ (Instr.rxPoll true 0x05#8).wf = true ∧
      (Instr.rxPoll false 0#8).wf = true := by decide

theorem witness_EventDecodingLosesNothing : decodeEvent 0x107FFFFF#32 = .ok (.strobe 0xFF#8 0x7FFF#15) := by decide

theorem witness_ActionEncodingRoundTrip :
    (Action.escapePrefix true 0x4F#8 0x50#8).wf = true ∧ decodeAction 0x00410003#32 = .ok (.escapePrefix false 0#8 0x41#8) := by
  decide

theorem witness_TableWordRoundTrip : (Instr.actAnswerback 2#2).wf = true ∧ (Instr.dkPoll 0x7FFF#15).wf = true := by decide

theorem witness_StepRunsTheDecodedOperation :
    wrappedQueue.trace = 0x60000000#32 :: [0x10000341#32, 0xF0000000#32] ∧ decodeEvent 0x60000000#32 = .ok .drainStep ∧
      State.reset.trace = [] := ⟨rfl, by decide, rfl⟩

theorem witness_PlacedWordRunsNext :
    Instr.drainStep.space = .eventWord ∧ Instr.drainStep.wf = true ∧ (Action.answerback 1#2).wf = true ∧
      failedCheck polledKeys = none := by decide

theorem witness_AdmissionByPhase : failedCheck wrappedQueue.cfg = none ∧ wrappedQueue.phase = .drain := by decide

theorem witness_ConfigurationCheckGuardsOperation :
    failedCheck { strobeKeys with dkCount := 16 } = some .dkCount ∧ failedCheck { strobeKeys with dkMode := .off } = some .dkMode :=
  by decide

theorem witness_PackedConfigurationLoads :
    failedCheck { polledKeys with escSelector := some 0x5B#8, raMode := .keyAck, raDelay := 200 } = none ∧
      timesFit { polledKeys with escSelector := some 0x5B#8, raMode := .keyAck, raDelay := 200 } = true ∧
      { polledKeys with escSelector := some 0x5B#8, raMode := .keyAck, raDelay := 200 }.action.length ≤ 15 := by decide

theorem witness_BootGivesTheResetTable : ∃ s, boot plainWords = .ok s := ⟨_, rfl⟩

theorem witness_StepKeepsTheInvariant :
    (Inv wrappedQueue ∧ Completes (step wrappedQueue)) ∧ (Inv debouncing ∧ Completes (step debouncing)) :=
  ⟨⟨wrappedQueue_inv, _, rfl⟩, debouncing_inv, _, rfl⟩

theorem witness_PowerUpHasTheInvariant : failedCheck delayedAck = none ∧ timesFit delayedAck = true := by decide

theorem witness_NoStepFaults : Inv wrappedQueue := wrappedQueue_inv

theorem witness_AdmittedOperationsComplete :
    Inv debouncing ∧ debouncing.trace = 0x90000001#32 :: [] ∧ decodeEvent 0x90000001#32 = .ok (.dkPoll 1#15) ∧
      phaseAdmits (admissionOf (.dkPoll 1#15)) debouncing.phase = true := ⟨debouncing_inv, rfl, by decide, rfl⟩

/-- The last slot, where `in` wraps. -/
theorem witness_StrobeStoresTheEntry :
    failedCheck { State.reset with inIdx := 15, outIdx := 3 }.cfg = none ∧
      { State.reset with inIdx := 15, outIdx := 3 }.inIdx < Config.baseline.par.n ∧
      ({ State.reset with inIdx := 15, outIdx := 3 }.inIdx + 1) % Config.baseline.par.n ≠ 3 := by decide

theorem witness_StrobeOnFullQueueCountsOnly :
    failedCheck fullQueue.cfg = none ∧ (fullQueue.inIdx + 1) % fullQueue.cfg.par.n = fullQueue.outIdx := by decide

/-- The longest elapsed time that a wrap does not reduce. -/
theorem witness_TickAdvancesTheTimeBase :
    failedCheck debouncing.cfg = none ∧ 0xFFFFFFFE < 2 ^ debouncing.cfg.par.tw ∧ 0xFFFFFFFF < 2 ^ debouncing.cfg.par.tw := by
  decide

theorem witness_QueuePredicatesFollowTheCount :
    (Inv fullQueue ∧ isFull fullQueue = true) ∧ (Inv State.reset ∧ isEmpty State.reset = true) :=
  ⟨⟨fullQueue_inv, rfl⟩, reset_inv, rfl⟩

/-- Room and no room for a STROBE; an entry and none for a DRAIN_STEP. -/
theorem witness_RingBufferRefinesAFifo :
    (Inv wrappedQueue ∧ Completes (exec (.strobe 0x41#8 1#15) wrappedQueue) ∧ Completes (exec .drainStep wrappedQueue) ∧
        Completes (exec .reset wrappedQueue)) ∧
      (Inv fullQueue ∧ Completes (exec (.strobe 0x41#8 0#15) fullQueue)) ∧
      (Inv ackReady ∧ Completes (exec (.rxPoll false 0#8) ackReady)) ∧
      Completes (exec .drainStep (inPhase Config.baseline .drain)) :=
  ⟨⟨wrappedQueue_inv, ⟨_, rfl⟩, ⟨_, rfl⟩, _, rfl⟩, ⟨fullQueue_inv, _, rfl⟩, ⟨ackReady_inv, _, rfl⟩, _, rfl⟩

theorem witness_StrobeNeverOverwritesTheOldestEntry :
    (isEmpty wrappedQueue = false ∧ Completes (exec (.strobe 0x41#8 1#15) wrappedQueue)) ∧
      (isEmpty fullQueue = false ∧ Completes (exec (.strobe 0x41#8 1#15) fullQueue)) :=
  ⟨⟨rfl, _, rfl⟩, rfl, _, rfl⟩

/-- ENQ, BEL in both pulse modes and in none: the hypotheses are the same for each. -/
theorem witness_RxPollStartsTheInvocation :
    (failedCheck immediateAck = none ∧ (inPhase immediateAck .idle).phase = .idle ∧ immediateAck.bellMode = .activeLow) ∧
      (failedCheck delayedAck = none ∧ (inPhase delayedAck .idle).phase = .idle ∧ delayedAck.bellMode = .activeHigh) ∧
      (failedCheck State.reset.cfg = none ∧ State.reset.phase = .idle ∧ State.reset.cfg.bellMode = .none) := by decide

theorem witness_OtherInboundBytesAreIgnored :
    (0x85#8 ≠ 0x05#8 ∧ 0x85#8 ≠ 0x07#8) ∧ Completes (exec (.rxPoll true 0x85#8) State.reset) := ⟨by decide, _, rfl⟩

theorem witness_TransformInvertsThenMasks : 7 < 8 := by decide

theorem witness_DrainStepOnEmptyQueueEndsTheDrain :
    failedCheck (inPhase Config.baseline .drain).cfg = none ∧ (inPhase Config.baseline .drain).phase = .drain ∧
      (inPhase Config.baseline .drain).inIdx = (inPhase Config.baseline .drain).outIdx := by decide

theorem witness_DrainStepProcessesTheOldestEntry :
    failedCheck wrappedQueue.cfg = none ∧ wrappedQueue.phase = .drain ∧ wrappedQueue.inIdx ≠ wrappedQueue.outIdx ∧
      wrappedQueue.outIdx < wrappedQueue.cfg.par.n ∧
      Memory.find wrappedQueue.slot wrappedQueue.outIdx = some { charCode := 0x61#8, directKeys := some 3#15 } := by decide

/-- Strobe mode; poll mode without a window; with one: a change, an acceptance, and a wait at the boundary. -/
theorem witness_DkPollEndsTheInvocation :
    (failedCheck strobeKeys = none ∧ (inPhase strobeKeys .dkPoll).phase = .dkPoll) ∧
      (failedCheck polledKeysAtOnce = none ∧ (inPhase polledKeysAtOnce .dkPoll).phase = .dkPoll) ∧
      (failedCheck debouncing.cfg = none ∧ debouncing.phase = .dkPoll ∧ dkSample debouncing.cfg 2#15 ≠ debouncing.db.candidate ∧
        dkSample debouncing.cfg 1#15 = debouncing.db.candidate ∧
        elapsed debouncing.cfg debouncing.time debouncing.db.candidateStart = 6 ∧
        elapsed debouncing.cfg 15 debouncing.db.candidateStart = 5) := by decide

theorem witness_InvocationHasItsShapeAndEnds :
    (Inv ackReady ∧ ackReady.phase = .idle) ∧
      task (some 0x07#8) 0#15 ackReady = [.rxPoll true 0x07#8, .bellEnd, .drainStep, .drainStep, .activity, .raEnd, .dkPoll 0#15] :=
  ⟨⟨ackReady_inv, rfl⟩, rfl⟩

theorem witness_OnlyPassedEntriesSetSent :
    after (exec .drainStep wrappedQueue) (fun t => !wrappedQueue.sent && t.sent) = true := by decide

/-- Elapsed equal to the window, one more, and across the wrap of the Time Base. -/
theorem witness_DebounceAcceptsStrictlyAfterTheWindow :
    (0 < polledKeys.debounceWindow ∧ debouncing.db.candidateStart < 2 ^ polledKeys.par.tw ∧ debouncing.db.inProgress = true) ∧
      15 = (debouncing.db.candidateStart + 5) % 2 ^ polledKeys.par.tw ∧
      debouncing.time = (debouncing.db.candidateStart + 6) % 2 ^ polledKeys.par.tw ∧
      4 = (0xFFFFFFFE + 6) % 2 ^ polledKeys.par.tw := by decide

theorem witness_ZeroWindowBypassesTheFilter :
    (inPhase polledKeysAtOnce .dkPoll).cfg.debounceWindow = 0 ∧ Completes (exec (.dkPoll 1#15) (inPhase polledKeysAtOnce .dkPoll)) :=
  ⟨rfl, _, rfl⟩

/-- A key at `dkCount`, a reserved key below it, and a queued entry with a sample. -/
theorem witness_UnusedKeysNeverRun :
    (Inv wrappedQueue ∧ wrappedQueue.cfg.dkCount ≤ 2 ∧
        Memory.find wrappedQueue.slot 15 = some { charCode := 0x61#8, directKeys := some 3#15 }) ∧
      (Inv (State.powerUp { strobeKeys with dkReservedMask := 2#15 }) ∧
        { strobeKeys with dkReservedMask := 2#15 }.dkReservedMask.getLsbD 1 = true) :=
  ⟨⟨wrappedQueue_inv, by decide⟩, by constructor <;> decide, rfl⟩

theorem witness_DispatchRunsTheActionInstruction :
    failedCheck polledKeys = none ∧ (Action.escapePrefix true 0x4F#8 0x50#8).wf = true := by decide

theorem witness_actions_admitted :
    failedCheck { State.powerUp polledKeys with actPressed := true }.cfg = none ∧
      { State.powerUp polledKeys with actPressed := true }.actPressed = true ∧
      (State.powerUp polledKeys).actPressed = false := by decide

/-- The action statements share one hypothesis. -/
theorem witness_NoOpActionDoesNothing : failedCheck (State.powerUp polledKeys).cfg = none := witness_actions_admitted.1
theorem witness_BreakActionReportsTheEdge : failedCheck (State.powerUp polledKeys).cfg = none := witness_actions_admitted.1
theorem witness_AnswerbackActionSendsItsSequence : failedCheck (State.powerUp polledKeys).cfg = none := witness_actions_admitted.1
theorem witness_EscapePrefixActionSendsItsForm : failedCheck (State.powerUp polledKeys).cfg = none := witness_actions_admitted.1

/-- Each mode; in delayed key-ack the boundary of the delay. -/
theorem witness_ActivityByMode :
    (failedCheck hostFollow = none ∧ (inPhase hostFollow .act).phase = .act) ∧
      (failedCheck immediateAck = none ∧ { inPhase immediateAck .act with sent := true }.phase = .act) ∧
      (failedCheck delayedAck = none ∧ (inPhase delayedAck .act).phase = .act ∧ elapsed delayedAck 10 7 = delayedAck.raDelay ∧
        elapsed delayedAck 11 7 = delayedAck.raDelay + 1) := by decide

theorem witness_RaEndReleasesThePin : failedCheck delayedAck = none ∧ (inPhase delayedAck .raWait).phase = .raWait := by decide

theorem witness_HostlineMirrorsTheLine :
    (failedCheck hostFollow = none ∧ (inPhase hostFollow .idle).phase = .idle) ∧
      (failedCheck delayedAck = none ∧ (inPhase delayedAck .idle).phase = .idle) := by decide

theorem witness_BellEndReleasesThePin :
    (failedCheck immediateAck = none ∧ (inPhase immediateAck .bellWait).phase = .bellWait ∧ immediateAck.bellMode = .activeLow) ∧
      (failedCheck delayedAck = none ∧ (inPhase delayedAck .bellWait).phase = .bellWait ∧ delayedAck.bellMode = .activeHigh) ∧
      (failedCheck hostFollow = none ∧ (inPhase hostFollow .bellWait).phase = .bellWait ∧ hostFollow.bellMode = .none) := by decide

theorem witness_ResetReinitializesTheBlock : failedCheck wrappedQueue.cfg = none := by decide

/-- By the ACTIVITY that fires the pulse, and by RESET. -/
theorem witness_PendingPulseIsNeverAbandoned :
    after (exec .activity { inPhase delayedAck .act with time := 11, hs := { pending := true, lastSendTime := 7 } })
        (fun t => !t.hs.pending && t.phase == .raWait) = true ∧
      after (exec .reset { inPhase delayedAck .act with hs := { pending := true, lastSendTime := 7 } }) (fun t => !t.hs.pending) = true ∧
      after (exec .activity { inPhase delayedAck .act with sent := true, time := 99, hs := { pending := true, lastSendTime := 7 } })
        (fun t => t.hs == { pending := true, lastSendTime := 99 }) = true := by
  decide

theorem witness_ImmediateAckPulsesOncePerSendingInvocation :
    (Inv ackReady ∧ ackReady.phase = .idle ∧ ackReady.cfg.raMode = .keyAck ∧ ackReady.cfg.raDelay = 0) ∧
      after (execAll (task none 0#15 ackReady) ackReady) (fun t => t.sent && t.outv == [.tx 0x41#8, .ra .L, .ra .H]) = true :=
  ⟨⟨ackReady_inv, rfl, rfl, rfl⟩, by decide⟩

theorem witness_InterruptOperationsWriteTheirFieldsOnly :
    (Instr.tick.agent = .interrupt ∧ Completes (exec .tick wrappedQueue)) ∧
      ((Instr.strobe 0x41#8 0#15).agent = .interrupt ∧ Completes (exec (.strobe 0x41#8 0#15) wrappedQueue)) :=
  ⟨⟨rfl, _, rfl⟩, rfl, _, rfl⟩

theorem witness_CooperativeOperationsLeaveInterruptFields :
    Instr.drainStep.agent = .cooperative ∧ Completes (exec .drainStep wrappedQueue) := ⟨rfl, _, rfl⟩

theorem witness_InterruptOperationsIgnoreCooperativeState :
    (Instr.strobe 0x41#8 0#15).agent = .interrupt ∧
      isFull { wrappedQueue with outIdx := 9 } = isFull wrappedQueue := ⟨rfl, rfl⟩

theorem witness_OverflowCounterIsUnobservable :
    isFull fullQueue = true ∧ Completes (exec (.strobe 0x42#8 0#15) fullQueue) := ⟨rfl, _, rfl⟩

theorem witness_RunsOnlyAppendOutput : Completes (execAll [.drainStep, .tick, .drainStep, .reset] wrappedQueue) := ⟨_, rfl⟩

end Sys2Proof.Tests
end

/-! PROOFS. The facts the invariant is used through: what a legal configuration gives, what the queue's count says (O22), and
which pin levels a phase allows. -/

namespace Sys2Proof.Machine

/-! ### Legal configurations -/

/-- Check 9 of 70_reset_and_hazards.md R293: a legal configuration has at least two slots. -/
theorem two_le_slots {c : Config} (hc : failedCheck c = none) : 2 ≤ c.par.n := by
  have hcap : capacityOk c = true := by
    unfold failedCheck at hc
    split_ifs at hc with _ _ _ _ hcap
    simpa using hcap
  simp only [capacityOk, Bool.and_eq_true, decide_eq_true_eq] at hcap
  exact hcap.1

theorem timesFit_iff {c : Config} :
    timesFit c = true ↔
      c.par.time0 < timeModulus c ∧ c.debounceWindow < timeModulus c ∧ c.raDelay < timeModulus c := by
  simp [timesFit]

theorem timeModulus_pos (c : Config) : 0 < timeModulus c := by simp [timeModulus]

/-! ### Keys and entries -/

@[simp] theorem keysInMask_zero (c : Config) : keysInMask c 0#15 = true := by simp [keysInMask]

@[simp] theorem keysInMask_dkSample (c : Config) (k : KeyMask) : keysInMask c (dkSample c k) = true := by
  simp [keysInMask, dkSample, BitVec.and_assoc]

theorem entryFits_captureEntry (c : Config) (ch : Byte) (k : KeyMask) : entryFits c (captureEntry c ch k) = true := by
  cases hm : c.dkMode <;> simp [entryFits, captureEntry, hm]

/-- A fitting entry's sample is within `dkMask`. -/
theorem keysInMask_of_entryFits {c : Config} {e : Entry} {k : KeyMask} (hf : entryFits c e = true)
    (hk : e.directKeys = some k) : keysInMask c k = true := by
  cases hm : c.dkMode <;> simp [entryFits, hm, hk] at hf
  exact hf

/-- In poll mode a fitting entry carries no sample (40_capture_queue.md R110). -/
theorem directKeys_of_entryFits_poll {c : Config} {e : Entry} (hf : entryFits c e = true) (hm : c.dkMode = .poll) :
    e.directKeys = none := by
  simpa [entryFits, hm] using hf

/-! ### The count -/

/-- `(in - out) mod N` without the modulus, for indices in range. -/
theorem queueCount_eq {s : State} (hi : s.inIdx < slotCount s) (ho : s.outIdx < slotCount s) :
    queueCount s = if s.outIdx ≤ s.inIdx then s.inIdx - s.outIdx else s.inIdx + slotCount s - s.outIdx := by
  unfold queueCount
  rw [mod_of_lt_twice (by omega)]
  split <;> split <;> omega

theorem isEmpty_iff_queueCount {s : State} (hi : s.inIdx < slotCount s) (ho : s.outIdx < slotCount s) :
    isEmpty s = true ↔ queueCount s = 0 := by
  simp only [isEmpty, beq_iff_eq]
  rw [queueCount_eq hi ho]
  split <;> omega

theorem isFull_iff_queueCount {s : State} (hi : s.inIdx < slotCount s) (ho : s.outIdx < slotCount s) :
    isFull s = true ↔ queueCount s = slotCount s - 1 := by
  simp only [isFull, beq_iff_eq]
  rw [queueCount_eq hi ho, mod_of_lt_twice (by omega)]
  split <;> split <;> omega

theorem queueCount_lt {s : State} (hi : s.inIdx < slotCount s) : queueCount s < slotCount s :=
  Nat.mod_lt _ (Nat.zero_lt_of_lt hi)

/-- A queue that is not empty has its oldest cell among its contents. -/
theorem find_out_mem_contents {s : State} (hi : s.inIdx < slotCount s) (ho : s.outIdx < slotCount s)
    (he : isEmpty s = false) : Memory.find s.slot s.outIdx ∈ contents s := by
  have hpos : 0 < queueCount s :=
    Nat.pos_of_ne_zero fun h0 => by simp [(isEmpty_iff_queueCount hi ho).mpr h0] at he
  refine List.mem_map.mpr ⟨0, List.mem_range.mpr hpos, ?_⟩
  rw [Nat.add_zero, Nat.mod_eq_of_lt ho]

/-! ### The pins -/

/-- During the bell pulse the pin is at the active level, which bell mode none does not have. -/
theorem bellPinFits_bellWait {s : State} (hp : s.phase = .bellWait) :
    bellPinFits s = true ↔ bellActive s.cfg = some s.bellPin := by
  simp only [bellPinFits, hp, beq_iff_eq]
  exact eq_comm

theorem bellPinFits_of_ne {s : State} (hp : s.phase ≠ .bellWait) :
    bellPinFits s = true ↔ s.bellPin = bellResetLevel s.cfg := by
  unfold bellPinFits
  split
  · exact absurd ‹_› hp
  all_goals simp

/-- Between phases without a bell pulse, what fits does not change. -/
theorem bellPinFits_setPhase {s : State} {p : Phase} {ra : PinLevel} (hs : s.phase ≠ .bellWait) (hp : p ≠ .bellWait) :
    bellPinFits { s with phase := p, raPin := ra } = bellPinFits s := by
  rw [Bool.eq_iff_iff, bellPinFits_of_ne hs, bellPinFits_of_ne hp]

/-- A mode with an active level has an inactive one, and it is the reset level (10_state.md R28). -/
theorem bellInactive_of_bellActive {c : Config} {l : PinLevel} (h : bellActive c = some l) :
    bellInactive c = some (bellResetLevel c) := by
  cases hm : c.bellMode <;> simp_all [bellActive, bellInactive, bellResetLevel]

/-- The ready/ack pulse exists in key-ack mode only (44_handshake.md R238). -/
theorem raPinFits_raWait {s : State} (hp : s.phase = .raWait) :
    raPinFits s = true ↔ s.cfg.raMode = .keyAck ∧ s.raPin = raActive s.cfg := by
  cases hm : s.cfg.raMode <;> simp [raPinFits, hm, hp]

theorem raPinFits_keyAck {s : State} (hm : s.cfg.raMode = .keyAck) (hp : s.phase ≠ .raWait) :
    raPinFits s = true ↔ s.raPin = raInactive s.cfg := by
  simp [raPinFits, hm, hp]

theorem raPinFits_hostFollow {s : State} (hm : s.cfg.raMode = .hostFollow) :
    raPinFits s = true ↔ (s.raPin = raActive s.cfg ∨ s.raPin = raInactive s.cfg) ∧ s.phase ≠ .raWait := by
  simp [raPinFits, hm]

/-- Between phases without a ready/ack pulse, what fits does not change. -/
theorem raPinFits_setPhase {s : State} {p : Phase} {bell : PinLevel} (hs : s.phase ≠ .raWait) (hp : p ≠ .raWait) :
    raPinFits { s with phase := p, bellPin := bell } = raPinFits s := by
  have hs' := bne_iff_ne.mpr hs
  have hp' := bne_iff_ne.mpr hp
  cases hm : s.cfg.raMode <;> simp [raPinFits, hm, hs, hp, hs', hp']

theorem raPinFits_resetLevel {s : State} (hpin : s.raPin = raResetLevel s.cfg) (hp : s.phase ≠ .raWait) :
    raPinFits s = true := by
  cases hm : s.cfg.raMode <;> simp [raPinFits, raResetLevel, hm, hpin, hp]

/-! ### The queue's predicates -/

/-- Settles O22: under the invariant both predicates read the count, which is below N. -/
theorem queuePredicatesFollowTheCount : Obligations.QueuePredicatesFollowTheCount := by
  intro s hs
  have hn : 2 ≤ slotCount s := two_le_slots hs.cfg_ok
  have hlt := queueCount_lt hs.in_lt
  have hempty := isEmpty_iff_queueCount hs.in_lt hs.out_lt
  have hfull := isFull_iff_queueCount hs.in_lt hs.out_lt
  rw [contents_length]
  refine ⟨Nat.le_sub_one_of_lt hlt, hempty, hfull, ?_⟩
  rintro ⟨he, hf⟩
  have := hempty.mp he
  have := hfull.mp hf
  omega

end Sys2Proof.Machine

/-! PROOFS. One rule per kind of update: which updates of the state keep the invariant. -/

namespace Sys2Proof.Machine

namespace Inv

variable {s : State}

/-- The fields that the invariant says nothing about. -/
theorem free (h : Inv s) {sent ind : Bool} {outv : List OutEvent} {ovf : BitVec 32} {trace : List Word}
    {pressed : Bool} {freeCount : Nat} :
    Inv { s with sent := sent, ind := ind, outv := outv, ovf := ovf, trace := trace, actPressed := pressed,
                 freeCount := freeCount } :=
  { h with }

theorem setTime (h : Inv s) {now : Nat} (hlt : now < timeModulus s.cfg) : Inv { s with time := now } :=
  { h with time_lt := hlt }

/-! ### The queue -/

/-- The oldest cell of a queue that is not empty holds an entry (10_state.md R22). -/
theorem oldest_written (h : Inv s) (he : isEmpty s = false) : ∃ e, Memory.find s.slot s.outIdx = some e :=
  Option.isSome_iff_exists.mp
    (List.all_eq_true.mp h.queue_written _ (find_out_mem_contents h.in_lt h.out_lt he))

/-- What a cell holds fits the mode. -/
theorem entry_fits (h : Inv s) {a : Nat} {e : Entry} (hf : Memory.find s.slot a = some e) :
    entryFits s.cfg e = true := by
  have hcell := find_all _ _ h.slot_fits a e hf
  simp only [Bool.and_eq_true] at hcell
  exact hcell.2

theorem enqueue (h : Inv s) {e : Entry} (he : entryFits s.cfg e = true) (hf : isFull s = false) :
    Inv { s with slot := Memory.store s.slot s.inIdx e, inIdx := (s.inIdx + 1) % slotCount s } :=
  { h with
    in_lt := Nat.mod_lt _ (Nat.zero_lt_of_lt h.in_lt)
    slot_wf := store_wf _ _ _ h.slot_wf
    slot_fits := all_store _ _ _ _ h.slot_fits (by simp only [he, Bool.and_true, decide_eq_true_eq]; exact h.in_lt)
    queue_written := by
      rw [contents_add e (two_le_slots h.cfg_ok) h.in_lt h.out_lt hf]
      simp [h.queue_written] }

theorem dequeue (h : Inv s) (he : isEmpty s = false) : Inv { s with outIdx := (s.outIdx + 1) % slotCount s } :=
  { h with
    out_lt := Nat.mod_lt _ (Nat.zero_lt_of_lt h.out_lt)
    queue_written := by
      rw [contents_remove h.in_lt h.out_lt he]
      exact List.all_eq_true.mpr fun x hx => List.all_eq_true.mp h.queue_written x (List.mem_of_mem_tail hx) }

/-! ### The direct keys -/

/-- A dispatch outside the debounced poll mode, where no filter state follows `dkPrev`. -/
theorem setPrev (h : Inv s) {new : KeyMask} (hnew : keysInMask s.cfg new = true)
    (hmode : s.cfg.dkMode ≠ .poll ∨ s.cfg.debounceWindow = 0) : Inv { s with dkPrev := new } :=
  { h with
    prev_fits := hnew
    db_stable := fun hm hw => by
      rcases hmode with hne | h0
      · exact absurd hm hne
      · exact absurd h0 (Nat.ne_of_gt hw) }

/-- The filter starts on a new candidate (42_debounce.md R180). -/
theorem startDebounce (h : Inv s) {x : KeyMask} (hx : keysInMask s.cfg x = true) (hm : s.cfg.dkMode = .poll)
    (hw : 0 < s.cfg.debounceWindow) :
    Inv { s with db := { candidate := x, candidateStart := s.time, inProgress := true } } :=
  { h with
    start_lt := h.time_lt
    candidate_fits := hx
    db_unused := fun hmode => by
      rcases hmode with hne | h0
      · exact absurd hm hne
      · exact absurd h0 (Nat.ne_of_gt hw)
    db_stable := fun _ _ hp => Bool.noConfusion hp }

/-- The filter accepts its candidate, which the dispatch makes `dkPrev` (42_debounce.md R182). -/
theorem acceptCandidate (h : Inv s) (hm : s.cfg.dkMode = .poll) (hw : 0 < s.cfg.debounceWindow) :
    Inv { s with db := { s.db with inProgress := false }, dkPrev := s.db.candidate } :=
  { h with
    prev_fits := h.candidate_fits
    db_unused := fun hmode => by
      rcases hmode with hne | h0
      · exact absurd hm hne
      · exact absurd h0 (Nat.ne_of_gt hw)
    db_stable := fun _ _ _ => rfl }

/-! ### The handshake and the pins -/

/-- In delayed key-ack, the handshake state may take any TW-bit time (10_state.md R55). -/
theorem setHandshake (h : Inv s) {hs : HandshakeState} (hm : s.cfg.raMode = .keyAck) (hd : 0 < s.cfg.raDelay)
    (hlt : hs.lastSendTime < timeModulus s.cfg) : Inv { s with hs := hs } :=
  { h with
    send_lt := hlt
    hs_unused := fun hmode => by
      rcases hmode with hne | h0
      · exact absurd hm hne
      · exact absurd h0 (Nat.ne_of_gt hd) }

/-- From one phase without a pulse to another, no pin moves. -/
theorem setPhase (h : Inv s) {p : Phase} (hs : s.phase ≠ .bellWait ∧ s.phase ≠ .raWait)
    (hp : p ≠ .bellWait ∧ p ≠ .raWait) : Inv { s with phase := p } :=
  { h with
    bell_pin := (bellPinFits_setPhase hs.1 hp.1).trans h.bell_pin
    ra_pin := (raPinFits_setPhase hs.2 hp.2).trans h.ra_pin }

/-- The bell pulse starts (44_handshake.md R244). -/
theorem startBell (h : Inv s) {l : PinLevel} (hl : bellActive s.cfg = some l) (hs : s.phase ≠ .raWait) :
    Inv { s with bellPin := l, phase := .bellWait } :=
  { h with
    bell_pin := by simp [bellPinFits_bellWait, hl]
    ra_pin := (raPinFits_setPhase hs (by decide)).trans h.ra_pin }

/-- The bell pulse ends (44_handshake.md R245). -/
theorem endBell (h : Inv s) (hs : s.phase = .bellWait) :
    Inv { s with bellPin := bellResetLevel s.cfg, phase := .drain } :=
  { h with
    bell_pin := by simp [bellPinFits_of_ne]
    ra_pin := (raPinFits_setPhase (by simp [hs]) (by decide)).trans h.ra_pin }

/-- A ready/ack pulse starts (44_handshake.md R237). -/
theorem startAck (h : Inv s) (hm : s.cfg.raMode = .keyAck) (hs : s.phase ≠ .bellWait) :
    Inv { s with raPin := raActive s.cfg, phase := .raWait } :=
  { h with
    bell_pin := (bellPinFits_setPhase hs (by decide)).trans h.bell_pin
    ra_pin := by simp [raPinFits_raWait, hm] }

/-- The ready/ack pulse ends (44_handshake.md R238). -/
theorem endAck (h : Inv s) (hs : s.phase = .raWait) :
    Inv { s with raPin := raInactive s.cfg, phase := .dkPoll } :=
  have hm : s.cfg.raMode = .keyAck := ((raPinFits_raWait hs).mp h.ra_pin).1
  { h with
    bell_pin := (bellPinFits_setPhase (by simp [hs]) (by decide)).trans h.bell_pin
    ra_pin := by simp [raPinFits_keyAck, hm] }

/-- The pin follows the host's line (44_handshake.md R240). -/
theorem followHost (h : Inv s) {l : PinLevel} (hm : s.cfg.raMode = .hostFollow)
    (hl : l = raActive s.cfg ∨ l = raInactive s.cfg) : Inv { s with raPin := l } :=
  { h with
    ra_pin := by
      have hp := ((raPinFits_hostFollow hm).mp h.ra_pin).2
      simp [raPinFits_hostFollow, hm, hl, hp] }

/-- RESET's fields (70_reset_and_hazards.md R290): what it keeps is `cfg`, `fault` and what the invariant is silent on. -/
theorem reinit (h : Inv s) : Inv (reinitialize s) :=
  { h with
    in_lt := Nat.zero_lt_of_lt h.in_lt
    out_lt := Nat.zero_lt_of_lt h.in_lt
    slot_wf := rfl
    slot_fits := rfl
    queue_written := by
      have hcount : queueCount (reinitialize s) = 0 := by simp [queueCount, reinitialize, State.powerUp]
      simp [contents, hcount]
    time_lt := (timesFit_iff.mp h.cfg_fits).1
    start_lt := timeModulus_pos _
    send_lt := timeModulus_pos _
    prev_fits := keysInMask_zero _
    candidate_fits := keysInMask_zero _
    db_unused := fun _ => rfl
    db_stable := fun _ _ _ => rfl
    hs_unused := fun _ => rfl
    bell_pin := (bellPinFits_of_ne (by simp [reinitialize, State.powerUp])).mpr rfl
    ra_pin := raPinFits_resetLevel rfl (by simp [reinitialize, State.powerUp]) }

end Inv

end Sys2Proof.Machine

/-! PROOFS. Every instruction keeps the invariant, and none faults under it (O15, O17). -/

namespace Sys2Proof.Machine

/-! ### The invariant, instruction by instruction -/

section

variable {s t : State}

/-- A bell drive moves the pin, reports it, and may take a free value (log 7). -/
theorem driveBellTo_eq (level : Option PinLevel) (s : State) :
    ∃ (l : PinLevel) (n : Nat),
      driveBellTo level s = { s with bellPin := l, outv := s.outv ++ [.bell l], freeCount := n } := by
  cases level with
  | none => exact ⟨_, _, rfl⟩
  | some l => exact ⟨l, s.freeCount, rfl⟩

theorem execStrobe_keeps_inv {c : Byte} {k : KeyMask} (hs : Inv s) (h : execStrobe c k s = .next t) : Inv t := by
  obtain ⟨-, ⟨-, rfl⟩ | ⟨hroom, -, rfl⟩⟩ := execStrobe_next h
  · exact hs.free
  · exact hs.enqueue (entryFits_captureEntry s.cfg c k) hroom

theorem execTick_keeps_inv (hs : Inv s) (h : execTick s = .next t) : Inv t := by
  obtain ⟨-, rfl⟩ := execTick_next h
  exact hs.setTime (Nat.mod_lt _ (timeModulus_pos _))

theorem execHostline_keeps_inv {asserted : Bool} (hs : Inv s) (h : execHostline asserted s = .next t) : Inv t := by
  obtain ⟨-, -, ⟨hm, rfl⟩ | ⟨-, rfl⟩⟩ := execHostline_next h
  · have hlevel := hs.followHost (l := if asserted then raActive s.cfg else raInactive s.cfg) hm
      (by cases asserted <;> simp)
    exact hlevel.free
  · exact hs

theorem execRxPoll_keeps_inv {v : Bool} {b : Byte} (hs : Inv s) (h : execRxPoll v b s = .next t) : Inv t := by
  obtain ⟨-, hp, ⟨-, -, l, hl, rfl⟩ | ⟨-, bs, -, rfl⟩⟩ := execRxPoll_next h
  · exact (hs.startBell hl (by simp [hp])).free
  · exact (hs.setPhase (p := .drain) (by simp [hp]) (by decide)).free

theorem execBellEnd_keeps_inv (hs : Inv s) (h : execBellEnd s = .next t) : Inv t := by
  obtain ⟨-, hp, rfl⟩ := execBellEnd_next h
  rw [bellInactive_of_bellActive ((bellPinFits_bellWait hp).mp hs.bell_pin)]
  exact (hs.endBell hp).free

/-- The removed entry leaves first, then its sample, if any, is dispatched. In poll mode, where the filter follows `dkPrev`, a
fitting entry has none. -/
theorem execDrainStep_keeps_inv (hs : Inv s) (h : execDrainStep s = .next t) : Inv t := by
  obtain ⟨-, hp, ⟨-, rfl⟩ | ⟨he, -, e, hf, rfl⟩⟩ := execDrainStep_next h
  · exact hs.setPhase (by simp [hp]) (by decide)
  · rw [drainEntry_eq]
    have hfits := hs.entry_fits hf
    have hrest := hs.dequeue he
    cases hk : e.directKeys with
    | none => exact hrest.free
    | some k =>
      have hmode : s.cfg.dkMode ≠ .poll := fun hm => by simp [directKeys_of_entryFits_poll hfits hm] at hk
      exact (hrest.setPrev (keysInMask_of_entryFits hfits hk) (.inl hmode)).free

theorem execActivity_keeps_inv (hs : Inv s) (h : execActivity s = .next t) : Inv t := by
  obtain ⟨-, hp, rfl | ⟨hm, -, -, rfl⟩ | ⟨hm, hd, -, rfl⟩ | ⟨hm, hd, -, -, -, rfl⟩⟩ := execActivity_next h
  · exact hs.setPhase (by simp [hp]) (by decide)
  · exact (hs.startAck hm (by simp [hp])).free
  · exact (hs.setHandshake (hs := { pending := true, lastSendTime := s.time }) hm hd hs.time_lt).setPhase
      (by simp [hp]) (by decide)
  · have hcleared := hs.setHandshake (hs := { s.hs with pending := false }) hm hd hs.send_lt
    exact (hcleared.startAck hm (by simp [hp])).free

theorem execRaEnd_keeps_inv (hs : Inv s) (h : execRaEnd s = .next t) : Inv t := by
  obtain ⟨-, hp, rfl⟩ := execRaEnd_next h
  exact (hs.endAck hp).free

theorem execDkPoll_keeps_inv {k : KeyMask} (hs : Inv s) (h : execDkPoll k s = .next t) : Inv t := by
  obtain ⟨-, hp, hcase⟩ := execDkPoll_next h
  have hidle := hs.setPhase (p := .idle) (by simp [hp]) (by decide)
  obtain rfl | ⟨-, hw, rfl⟩ | ⟨hm, hw, -, rfl⟩ | ⟨hm, hw, -, -, rfl⟩ := hcase
  · exact hidle
  · rw [dispatch_eq]
    exact (hidle.setPrev (keysInMask_dkSample s.cfg k) (.inr hw)).free
  · exact hidle.startDebounce (keysInMask_dkSample s.cfg k) hm hw
  · rw [dispatch_eq]
    exact (hidle.acceptCandidate hm hw).free

theorem execReset_keeps_inv (hs : Inv s) (h : execReset s = .next t) : Inv t := by
  obtain ⟨-, rfl⟩ := execReset_next h
  exact hs.reinit.free

/-- An action writes the indicator and the output trace only. -/
theorem execAction_writes {a : Action} (h : exec a.toInstr s = .next t) :
    ∃ new, t = { s with ind := t.ind, outv := s.outv ++ new } := by
  cases a with
  | noop =>
    obtain ⟨-, rfl⟩ := execActNoop_next h
    exact ⟨[], by simp⟩
  | brk =>
    obtain ⟨-, rfl⟩ := execActBreak_next h
    exact ⟨_, rfl⟩
  | answerback idx =>
    obtain ⟨-, -, bs, -, rfl⟩ := execActAnswerback_next h
    exact ⟨_, rfl⟩
  | escapePrefix p sel lit =>
    obtain ⟨-, rfl⟩ := execActEscapeprefix_next h
    exact ⟨_, rfl⟩

theorem execAction_keeps_inv (a : Action) (hs : Inv s) (h : exec a.toInstr s = .next t) : Inv t := by
  obtain ⟨new, ht⟩ := execAction_writes h
  rw [ht]
  exact hs.free

theorem exec_keeps_inv {i : Instr} (hs : Inv s) (h : exec i s = .next t) : Inv t := by
  cases i with
  | strobe c k => exact execStrobe_keeps_inv hs h
  | tick => exact execTick_keeps_inv hs h
  | hostline asserted => exact execHostline_keeps_inv hs h
  | rxPoll v b => exact execRxPoll_keeps_inv hs h
  | bellEnd => exact execBellEnd_keeps_inv hs h
  | drainStep => exact execDrainStep_keeps_inv hs h
  | activity => exact execActivity_keeps_inv hs h
  | raEnd => exact execRaEnd_keeps_inv hs h
  | dkPoll k => exact execDkPoll_keeps_inv hs h
  | reset => exact execReset_keeps_inv hs h
  | actNoop => exact execAction_keeps_inv .noop hs h
  | actBreak => exact execAction_keeps_inv .brk hs h
  | actAnswerback idx => exact execAction_keeps_inv (.answerback idx) hs h
  | actEscapeprefix p sel lit => exact execAction_keeps_inv (.escapePrefix p sel lit) hs h

end

/-- Settles O15: every step delivers a word and performs one instruction, and both keep the invariant. -/
theorem stepKeepsTheInvariant : Obligations.StepKeepsTheInvariant := by
  intro s t hs h
  obtain ⟨w, rest, i, -, -, hexec⟩ := step_next h
  exact exec_keeps_inv (s := { s with trace := rest }) hs.free hexec

/-! ### No fault -/

section

variable {s : State}

/-- Admission itself never faults. -/
theorem noFault_admitted {a : Admission} {effect : State → Result} (h : noFault (effect s) = true) :
    noFault (admitted a s effect) = true := by
  unfold admitted
  split
  · rfl
  · split
    · exact h
    · rfl

/-- `in` is in range, so the slot write answers. -/
theorem noFault_execStrobe (hs : Inv s) (c : Byte) (k : KeyMask) : noFault (execStrobe c k s) = true := by
  refine noFault_admitted ?_
  rw [add_total _ _ hs.in_lt]
  split <;> rfl

/-- The slot is read on a queue that is not empty only, and there the cell at `out` is written. -/
theorem noFault_execDrainStep (hs : Inv s) : noFault (execDrainStep s) = true := by
  refine noFault_admitted ?_
  split
  · rfl
  · rename_i he
    have he := Bool.eq_false_iff.mpr he
    obtain ⟨e, hf⟩ := hs.oldest_written he
    rw [remove_total he hs.out_lt hf]
    rfl

/-! The effects of the other operations answer a next state on every branch, or are refused. -/

theorem noFault_execTick : noFault (execTick s) = true := noFault_admitted rfl

theorem noFault_execHostline (asserted : Bool) : noFault (execHostline asserted s) = true := by
  refine noFault_admitted ?_
  cases s.cfg.raMode <;> rfl

theorem noFault_execRxPoll (v : Bool) (b : Byte) : noFault (execRxPoll v b s) = true := by
  refine noFault_admitted ?_
  dsimp only
  split <;> split <;> rfl

theorem noFault_execBellEnd : noFault (execBellEnd s) = true := noFault_admitted rfl

theorem noFault_execActivity : noFault (execActivity s) = true := by
  refine noFault_admitted ?_
  split_ifs <;> rfl

theorem noFault_execRaEnd : noFault (execRaEnd s) = true := noFault_admitted rfl

theorem noFault_execDkPoll (k : KeyMask) : noFault (execDkPoll k s) = true := by
  refine noFault_admitted ?_
  cases s.cfg.dkMode with
  | off | strobe => rfl
  | poll => cases debounce (dkSample s.cfg k) s with | mk v u => cases v <;> rfl

theorem noFault_execReset : noFault (execReset s) = true := noFault_admitted rfl

theorem noFault_execAction (a : Action) : noFault (exec a.toInstr s) = true := by
  cases a with
  | noop => exact noFault_admitted (a := .always) (effect := fun s => .next (actNoOp s)) rfl
  | brk => exact noFault_admitted (a := .always) (effect := fun s => .next (actBreak s)) rfl
  | answerback idx =>
    show noFault (execActAnswerback idx s) = true
    refine noFault_admitted ?_
    split <;> rfl
  | escapePrefix p sel lit =>
    exact noFault_admitted (a := .always) (effect := fun s => .next (actEscape p sel lit s)) rfl

theorem noFault_exec (hs : Inv s) (i : Instr) : noFault (exec i s) = true := by
  cases i with
  | strobe c k => exact noFault_execStrobe hs c k
  | tick => exact noFault_execTick
  | hostline asserted => exact noFault_execHostline asserted
  | rxPoll v b => exact noFault_execRxPoll v b
  | bellEnd => exact noFault_execBellEnd
  | drainStep => exact noFault_execDrainStep hs
  | activity => exact noFault_execActivity
  | raEnd => exact noFault_execRaEnd
  | dkPoll k => exact noFault_execDkPoll k
  | reset => exact noFault_execReset
  | actNoop => exact noFault_execAction .noop
  | actBreak => exact noFault_execAction .brk
  | actAnswerback idx => exact noFault_execAction (.answerback idx)
  | actEscapeprefix p sel lit => exact noFault_execAction (.escapePrefix p sel lit)

end

/-- Settles O17: a step that finds no operation is refused, and under the invariant no instruction faults. -/
theorem noStepFaults : Obligations.NoStepFaults := by
  intro s hs
  unfold step fetch
  split
  · rfl
  · rename_i i s1 hfetch
    split at hfetch
    · cases hfetch
    · split at hfetch
      · cases hfetch
      · cases hfetch
        exact noFault_exec hs.free i

end Sys2Proof.Machine

/-! PROOFS. Who writes what (10_state.md R59, 60_exceptions.md R270), and what every run keeps (O53, O54, O56). -/

namespace Sys2Proof.Machine

/-- What every operation keeps: the configuration, the fault mark, and the output trace as a front part. -/
structure Extends (s t : State) : Prop where
  cfg : t.cfg = s.cfg
  fault : t.fault = s.fault
  outv : s.outv <+: t.outv

/-- What a cooperative operation keeps beside that: the interrupt context's fields. -/
structure CooperativeFrame (s t : State) : Prop extends Extends s t where
  slot : t.slot = s.slot
  inIdx : t.inIdx = s.inIdx
  ovf : t.ovf = s.ovf
  time : t.time = s.time

namespace Extends

theorem refl (s : State) : Extends s s := ⟨rfl, rfl, List.prefix_rfl⟩

theorem trans {s t u : State} (hst : Extends s t) (htu : Extends t u) : Extends s u :=
  ⟨htu.cfg.trans hst.cfg, htu.fault.trans hst.fault, hst.outv.trans htu.outv⟩

end Extends

section

variable {s t : State}

/-- R59: an interrupt operation writes `slot`, `in`, `ovf` and `time` only. -/
theorem exec_interrupt_writes {i : Instr} (hi : i.agent = .interrupt) (h : exec i s = .next t) :
    t = { s with slot := t.slot, inIdx := t.inIdx, ovf := t.ovf, time := t.time } := by
  cases i with
  | strobe c k => obtain ⟨-, ⟨-, rfl⟩ | ⟨-, -, rfl⟩⟩ := execStrobe_next h <;> rfl
  | tick =>
    obtain ⟨-, rfl⟩ := execTick_next h
    rfl
  | _ => cases hi

/-- New values for the cooperative context's fields, and output appended. -/
theorem CooperativeFrame.of_append {outIdx : Nat} {phase : Phase} {sent ind : Bool} {bellPin raPin : PinLevel}
    {new : List OutEvent} {dkPrev : KeyMask} {db : DebounceState} {hs : HandshakeState} {freeCount : Nat} :
    CooperativeFrame s
      { s with outIdx := outIdx, phase := phase, sent := sent, ind := ind, bellPin := bellPin, raPin := raPin,
               outv := s.outv ++ new, dkPrev := dkPrev, db := db, hs := hs, freeCount := freeCount } :=
  { cfg := rfl, fault := rfl, outv := List.prefix_append _ _, slot := rfl, inIdx := rfl, ovf := rfl, time := rfl }

/-- New values for the cooperative context's fields, and no output. -/
theorem CooperativeFrame.of_silent {phase : Phase} {db : DebounceState} {hs : HandshakeState} :
    CooperativeFrame s { s with phase := phase, db := db, hs := hs } :=
  { cfg := rfl, fault := rfl, outv := List.prefix_rfl, slot := rfl, inIdx := rfl, ovf := rfl, time := rfl }

theorem execHostline_frame {asserted : Bool} (h : execHostline asserted s = .next t) : CooperativeFrame s t := by
  obtain ⟨-, -, ⟨-, rfl⟩ | ⟨-, rfl⟩⟩ := execHostline_next h
  · exact .of_append
  · exact .of_silent

theorem execRxPoll_frame {v : Bool} {b : Byte} (h : execRxPoll v b s = .next t) : CooperativeFrame s t := by
  obtain ⟨-, -, ⟨-, -, l, -, rfl⟩ | ⟨-, bs, -, rfl⟩⟩ := execRxPoll_next h
  · exact .of_append
  · exact .of_append

theorem execBellEnd_frame (h : execBellEnd s = .next t) : CooperativeFrame s t := by
  obtain ⟨-, -, rfl⟩ := execBellEnd_next h
  obtain ⟨l, n, hdrive⟩ := driveBellTo_eq (bellInactive s.cfg) s
  rw [hdrive]
  exact .of_append

theorem execDrainStep_frame (h : execDrainStep s = .next t) : CooperativeFrame s t := by
  obtain ⟨-, -, ⟨-, rfl⟩ | ⟨-, -, e, -, rfl⟩⟩ := execDrainStep_next h
  · exact .of_silent
  · rw [drainEntry_eq]
    simp only [List.append_assoc]
    exact .of_append

theorem execActivity_frame (h : execActivity s = .next t) : CooperativeFrame s t := by
  obtain ⟨-, -, rfl | ⟨-, -, -, rfl⟩ | ⟨-, -, -, rfl⟩ | ⟨-, -, -, -, -, rfl⟩⟩ := execActivity_next h
  · exact .of_silent
  · exact .of_append
  · exact .of_silent
  · exact .of_append

theorem execRaEnd_frame (h : execRaEnd s = .next t) : CooperativeFrame s t := by
  obtain ⟨-, -, rfl⟩ := execRaEnd_next h
  exact .of_append

theorem execDkPoll_frame {k : KeyMask} (h : execDkPoll k s = .next t) : CooperativeFrame s t := by
  obtain ⟨-, -, rfl | ⟨-, -, rfl⟩ | ⟨-, -, -, rfl⟩ | ⟨-, -, -, -, rfl⟩⟩ := execDkPoll_next h
  · exact .of_silent
  · rw [dispatch_eq]
    exact .of_append
  · exact .of_silent
  · rw [dispatch_eq]
    exact .of_append

theorem execAction_frame (a : Action) (h : exec a.toInstr s = .next t) : CooperativeFrame s t := by
  obtain ⟨new, ht⟩ := execAction_writes h
  rw [ht]
  exact .of_append

/-- R59: no cooperative operation, the key actions among them, touches the interrupt context's fields. -/
theorem exec_cooperative_frame {i : Instr} (hi : i.agent = .cooperative) (h : exec i s = .next t) :
    CooperativeFrame s t := by
  cases i with
  | strobe | tick | reset => cases hi
  | hostline asserted => exact execHostline_frame h
  | rxPoll v b => exact execRxPoll_frame h
  | bellEnd => exact execBellEnd_frame h
  | drainStep => exact execDrainStep_frame h
  | activity => exact execActivity_frame h
  | raEnd => exact execRaEnd_frame h
  | dkPoll k => exact execDkPoll_frame h
  | actNoop => exact execAction_frame .noop h
  | actBreak => exact execAction_frame .brk h
  | actAnswerback idx => exact execAction_frame (.answerback idx) h
  | actEscapeprefix p sel lit => exact execAction_frame (.escapePrefix p sel lit) h

theorem execReset_extends (h : execReset s = .next t) : Extends s t := by
  obtain ⟨-, rfl⟩ := execReset_next h
  exact ⟨rfl, rfl, List.prefix_append _ _⟩

/-- Every operation, by its agent: an interrupt operation writes none of these fields, a cooperative one appends, and RESET
appends its pin events (70_reset_and_hazards.md R290). -/
theorem exec_extends {i : Instr} (h : exec i s = .next t) : Extends s t := by
  cases hi : i.agent with
  | interrupt =>
    rw [exec_interrupt_writes hi h]
    exact ⟨rfl, rfl, List.prefix_rfl⟩
  | cooperative => exact (exec_cooperative_frame hi h).toExtends
  | reinitialization =>
    cases i with
    | reset => exact execReset_extends h
    | _ => cases hi

/-- A list of operations that runs through runs its first one, then the rest. -/
theorem execAll_cons_next {i : Instr} {rest : List Instr} (h : execAll (i :: rest) s = .next t) :
    ∃ u, exec i s = .next u ∧ execAll rest u = .next t := by
  unfold execAll at h
  split at h
  · exact ⟨_, ‹_›, h⟩
  · cases h
  · cases h

theorem execAll_extends {is : List Instr} (h : execAll is s = .next t) : Extends s t := by
  induction is generalizing s with
  | nil =>
    cases h
    exact .refl _
  | cons i rest ih =>
    obtain ⟨u, hu, hrest⟩ := execAll_cons_next h
    exact (exec_extends hu).trans (ih hrest)

end

/-- Settles O53. -/
theorem interruptOperationsWriteTheirFieldsOnly : Obligations.InterruptOperationsWriteTheirFieldsOnly :=
  fun _ _ _ hi h => exec_interrupt_writes hi h

/-- Settles O54. -/
theorem cooperativeOperationsLeaveInterruptFields : Obligations.CooperativeOperationsLeaveInterruptFields := by
  intro s t i hi h
  have hframe := exec_cooperative_frame hi h
  exact ⟨hframe.slot, hframe.inIdx, hframe.ovf, hframe.time⟩

/-- Settles O56, by induction on the list of operations. -/
theorem runsOnlyAppendOutput : Obligations.RunsOnlyAppendOutput := by
  intro is s t h
  have hext := execAll_extends h
  exact ⟨hext.outv, hext.cfg, hext.fault⟩

end Sys2Proof.Machine

/-! PROOFS. No run reads `bellDuration`, `raDuration`, `strobeEdge` or `charPullupMask` (O58, 10_state.md R52). -/

namespace Sys2Proof.Machine

/-- A state under a configuration with other values in the four fields that no rule reads. -/
def State.withUnread (d r : Nat) (e : Edge) (m : Byte) (s : State) : State :=
  { s with cfg := { s.cfg with bellDuration := d, raDuration := r, strobeEdge := e, charPullupMask := m } }

section

variable (d r : Nat) (e : Edge) (m : Byte) (s : State)

/-! What every rule does read is as before. -/

@[simp] theorem withUnread_phase : (s.withUnread d r e m).phase = s.phase := rfl
@[simp] theorem withUnread_actPressed : (s.withUnread d r e m).actPressed = s.actPressed := rfl
@[simp] theorem withUnread_dkMode : (s.withUnread d r e m).cfg.dkMode = s.cfg.dkMode := rfl
@[simp] theorem withUnread_raMode : (s.withUnread d r e m).cfg.raMode = s.cfg.raMode := rfl
@[simp] theorem withUnread_failedCheck : failedCheck (s.withUnread d r e m).cfg = failedCheck s.cfg := rfl
@[simp] theorem withUnread_dkSample (k : KeyMask) : dkSample (s.withUnread d r e m).cfg k = dkSample s.cfg k := rfl
@[simp] theorem withUnread_isFull : isFull (s.withUnread d r e m) = isFull s := rfl
@[simp] theorem withUnread_isEmpty : isEmpty (s.withUnread d r e m) = isEmpty s := rfl

/-! ### The shared operations -/

theorem admitted_withUnread {a : Admission} {effect : State → Result}
    (h : effect (s.withUnread d r e m) = mapNext (State.withUnread d r e m) (effect s)) :
    admitted a (s.withUnread d r e m) effect = mapNext (State.withUnread d r e m) (admitted a s effect) := by
  unfold admitted
  rw [withUnread_failedCheck, withUnread_phase, h]
  split
  · rfl
  · split <;> rfl

theorem driveBellTo_withUnread (level : Option PinLevel) :
    driveBellTo level (s.withUnread d r e m) = (driveBellTo level s).withUnread d r e m := by
  cases level <;> rfl

theorem dispatch_withUnread (new : KeyMask) :
    dispatch new (s.withUnread d r e m) = (dispatch new s).withUnread d r e m := by
  simp only [dispatch_eq]
  rfl

theorem drainEntry_withUnread (en : Entry) :
    drainEntry en (s.withUnread d r e m) = (drainEntry en s).withUnread d r e m := by
  simp only [drainEntry_eq]
  rfl

theorem debounce_withUnread (x : KeyMask) :
    debounce x (s.withUnread d r e m) = Prod.map id (State.withUnread d r e m) (debounce x s) := by
  unfold debounce
  simp only [apply_ite (Prod.map id (State.withUnread d r e m))]
  rfl

/-! ### The instructions -/

theorem execStrobe_withUnread (c : Byte) (k : KeyMask) :
    execStrobe c k (s.withUnread d r e m) = mapNext (State.withUnread d r e m) (execStrobe c k s) := by
  refine admitted_withUnread d r e m s ?_
  have hslots : (s.withUnread d r e m).inIdx < slotCount (s.withUnread d r e m) ↔ s.inIdx < slotCount s := Iff.rfl
  unfold add memWrite
  simp only [withUnread_isFull, hslots]
  split_ifs <;> rfl

theorem execTick_withUnread :
    execTick (s.withUnread d r e m) = mapNext (State.withUnread d r e m) (execTick s) :=
  admitted_withUnread d r e m s rfl

theorem execHostline_withUnread (asserted : Bool) :
    execHostline asserted (s.withUnread d r e m) = mapNext (State.withUnread d r e m) (execHostline asserted s) := by
  refine admitted_withUnread d r e m s ?_
  rw [withUnread_raMode]
  cases s.cfg.raMode <;> rfl

theorem execRxPoll_withUnread (v : Bool) (b : Byte) :
    execRxPoll v b (s.withUnread d r e m) = mapNext (State.withUnread d r e m) (execRxPoll v b s) := by
  refine admitted_withUnread d r e m s ?_
  have hbell (u : State) :
      (if v = true ∧ b = Config.bel ∧ u.cfg.bellMode ≠ .none then
          Host.Outcome.next (goPhase .bellWait (bellOn (u.withUnread d r e m)))
        else .next (goPhase .drain (u.withUnread d r e m)) : Result) =
      mapNext (State.withUnread d r e m)
        (if v = true ∧ b = Config.bel ∧ u.cfg.bellMode ≠ .none then .next (goPhase .bellWait (bellOn u))
          else .next (goPhase .drain u)) := by
    split
    · exact congrArg (fun t => Host.Outcome.next (goPhase .bellWait t)) (driveBellTo_withUnread d r e m u (bellActive u.cfg))
    · rfl
  by_cases he : v = true ∧ b = Config.enq
  · simp only [if_pos he]
    exact hbell (txs s.cfg.ab0 { s with sent := false })
  · simp only [if_neg he]
    exact hbell { s with sent := false }

theorem execBellEnd_withUnread :
    execBellEnd (s.withUnread d r e m) = mapNext (State.withUnread d r e m) (execBellEnd s) :=
  admitted_withUnread d r e m s
    (congrArg (fun t => Host.Outcome.next (goPhase .drain t)) (driveBellTo_withUnread d r e m s (bellInactive s.cfg)))

theorem execDrainStep_withUnread :
    execDrainStep (s.withUnread d r e m) = mapNext (State.withUnread d r e m) (execDrainStep s) := by
  refine admitted_withUnread d r e m s ?_
  have hslots : (s.withUnread d r e m).outIdx < slotCount (s.withUnread d r e m) ↔ s.outIdx < slotCount s := Iff.rfl
  have hcell : Memory.find (s.withUnread d r e m).slot (s.withUnread d r e m).outIdx = Memory.find s.slot s.outIdx := rfl
  unfold remove memRead
  simp only [withUnread_isEmpty, hslots, hcell]
  split_ifs
  · rfl
  · cases Memory.find s.slot s.outIdx with
    | none => rfl
    | some en =>
      exact congrArg Host.Outcome.next
        (drainEntry_withUnread d r e m { s with outIdx := (s.outIdx + 1) % slotCount s } en)
  · rfl

theorem execActivity_withUnread :
    execActivity (s.withUnread d r e m) = mapNext (State.withUnread d r e m) (execActivity s) := by
  refine admitted_withUnread d r e m s ?_
  simp only [apply_ite (mapNext (State.withUnread d r e m))]
  rfl

theorem execRaEnd_withUnread :
    execRaEnd (s.withUnread d r e m) = mapNext (State.withUnread d r e m) (execRaEnd s) :=
  admitted_withUnread d r e m s rfl

theorem execDkPoll_withUnread (k : KeyMask) :
    execDkPoll k (s.withUnread d r e m) = mapNext (State.withUnread d r e m) (execDkPoll k s) := by
  refine admitted_withUnread d r e m s ?_
  rw [withUnread_dkMode]
  cases s.cfg.dkMode with
  | off | strobe => rfl
  | poll =>
    rw [withUnread_dkSample, debounce_withUnread]
    cases debounce (dkSample s.cfg k) s with
    | mk v u =>
      cases v with
      | none => rfl
      | some v => exact congrArg (fun t => Host.Outcome.next (goPhase .idle t)) (dispatch_withUnread d r e m u v)

theorem execReset_withUnread :
    execReset (s.withUnread d r e m) = mapNext (State.withUnread d r e m) (execReset s) :=
  admitted_withUnread d r e m s rfl

theorem execActNoop_withUnread :
    execActNoop (s.withUnread d r e m) = mapNext (State.withUnread d r e m) (execActNoop s) :=
  admitted_withUnread d r e m s rfl

theorem execActBreak_withUnread :
    execActBreak (s.withUnread d r e m) = mapNext (State.withUnread d r e m) (execActBreak s) :=
  admitted_withUnread d r e m s rfl

theorem execActAnswerback_withUnread (idx : BitVec 2) :
    execActAnswerback idx (s.withUnread d r e m) = mapNext (State.withUnread d r e m) (execActAnswerback idx s) := by
  refine admitted_withUnread d r e m s ?_
  unfold actAnswerback
  rw [withUnread_actPressed]
  split_ifs <;> rfl

theorem execActEscapeprefix_withUnread (p : Bool) (sel lit : Byte) :
    execActEscapeprefix p sel lit (s.withUnread d r e m) =
      mapNext (State.withUnread d r e m) (execActEscapeprefix p sel lit s) := by
  refine admitted_withUnread d r e m s ?_
  unfold actEscape
  rw [withUnread_actPressed]
  cases p <;> split_ifs <;> rfl

theorem exec_withUnread (i : Instr) :
    exec i (s.withUnread d r e m) = mapNext (State.withUnread d r e m) (exec i s) := by
  cases i with
  | strobe c k => exact execStrobe_withUnread d r e m s c k
  | tick => exact execTick_withUnread d r e m s
  | hostline asserted => exact execHostline_withUnread d r e m s asserted
  | rxPoll v b => exact execRxPoll_withUnread d r e m s v b
  | bellEnd => exact execBellEnd_withUnread d r e m s
  | drainStep => exact execDrainStep_withUnread d r e m s
  | activity => exact execActivity_withUnread d r e m s
  | raEnd => exact execRaEnd_withUnread d r e m s
  | dkPoll k => exact execDkPoll_withUnread d r e m s k
  | reset => exact execReset_withUnread d r e m s
  | actNoop => exact execActNoop_withUnread d r e m s
  | actBreak => exact execActBreak_withUnread d r e m s
  | actAnswerback idx => exact execActAnswerback_withUnread d r e m s idx
  | actEscapeprefix p sel lit => exact execActEscapeprefix_withUnread d r e m s p sel lit

theorem execAll_withUnread (is : List Instr) :
    execAll is (s.withUnread d r e m) = mapNext (State.withUnread d r e m) (execAll is s) := by
  induction is generalizing s with
  | nil => rfl
  | cons i rest ih =>
    unfold execAll
    rw [exec_withUnread]
    cases exec i s with
    | next u => exact ih u
    | fault f => rfl
    | refused x => rfl

end

/-- Settles O58: changing the unread fields commutes with every instruction, so, by induction, with every list of them. -/
theorem unreadConfigurationFieldsChangeNothing : Obligations.UnreadConfigurationFieldsChangeNothing :=
  fun is s d r e m => execAll_withUnread d r e m s is

end Sys2Proof.Machine

/-! PROOFS. The 24 bits of a slot, and the step over the trace (O8, O9). -/

namespace Sys2Proof.Machine

/-- R61, bit by bit: the character code, the presence bit, the mask. -/
theorem getLsbD_packEntry (e : Entry) {i : Nat} (hi : i < 24) :
    (packEntry e).getLsbD i =
      if i < 8 then e.charCode.getLsbD i
      else if i = 8 then e.directKeys.isSome
      else (e.directKeys.getD 0#15).getLsbD (i - 9) := by
  obtain ⟨ch, dk⟩ := e
  have hcode : 8 ≤ i → ch.getLsbD i = false := BitVec.getLsbD_of_ge ch i
  cases dk with
  | none =>
    simp only [packEntry, BitVec.getLsbD_setWidth]
    split_ifs with h8 h9
    · simp [hi]
    · simp [hcode (by omega)]
    · simp [hcode (by omega)]
  | some k =>
    simp only [packEntry, BitVec.getLsbD_or, BitVec.getLsbD_shiftLeft, BitVec.getLsbD_setWidth, BitVec.getLsbD_one]
    split_ifs with h8 h9
    · simp [hi, h8, show i < 9 by omega]
    · simp [h9]
    · simp [hcode (by omega), hi, show ¬i < 9 by omega, show i - 8 ≠ 0 by omega, show i - 9 < 24 by omega]

/-- Bits 7 to 0 (20_memory.md R61). -/
theorem packEntry_charCode (e : Entry) : (packEntry e).extractLsb' 0 8 = e.charCode := by
  apply BitVec.eq_of_getLsbD_eq
  intro i hi
  simp [getLsbD_packEntry e (show i < 24 by omega), hi]

/-- Bit 8 (20_memory.md R61). -/
theorem packEntry_presence (e : Entry) : (packEntry e).getLsbD 8 = e.directKeys.isSome :=
  getLsbD_packEntry e (by decide)

/-- Bits 23 to 9 (20_memory.md R61). -/
theorem packEntry_mask (e : Entry) : (packEntry e).extractLsb' 9 15 = e.directKeys.getD 0#15 := by
  apply BitVec.eq_of_getLsbD_eq
  intro i hi
  simp [getLsbD_packEntry e (show 9 + i < 24 by omega), hi, show ¬9 + i < 8 by omega, show 9 + i ≠ 8 by omega]

/-- Unpacking reads the three places, so it gives the entry back. -/
theorem unpackEntry_packEntry (e : Entry) : unpackEntry (packEntry e) = e := by
  unfold unpackEntry
  rw [packEntry_charCode, packEntry_presence, packEntry_mask]
  obtain ⟨ch, _ | k⟩ := e <;> rfl

/-- Settles O8. -/
theorem slotPackingHoldsTheEntry : Obligations.SlotPackingHoldsTheEntry :=
  fun e => ⟨unpackEntry_packEntry e, packEntry_charCode e, packEntry_presence e, packEntry_mask e⟩

theorem step_of_trace_cons {s : State} {w : Word} {rest : List Word} {i : Instr} (htrace : s.trace = w :: rest)
    (hdecode : decodeEvent w = .ok i) : step s = exec i { s with trace := rest } := by
  simp [step, fetch, htrace, hdecode]

theorem step_of_trace_nil {s : State} (htrace : s.trace = []) : step s = .refused .endOfTrace := by
  simp [step, fetch, htrace]

/-- Settles O9. -/
theorem stepRunsTheDecodedOperation : Obligations.StepRunsTheDecodedOperation :=
  ⟨fun _ _ _ _ htrace hdecode => step_of_trace_cons htrace hdecode, fun _ htrace => step_of_trace_nil htrace⟩

end Sys2Proof.Machine

/-! PROOFS. The ring buffer as a bounded first-in first-out list (O23), and the producer beside the consumer (O24). -/

namespace Sys2Proof.Machine

section

variable {s t : State}

/-- Of all operations, only DRAIN_STEP and RESET write `out`. -/
theorem exec_keeps_outIdx {i : Instr} (hdrain : i ≠ .drainStep) (hreset : i ≠ .reset) (h : exec i s = .next t) :
    t.outIdx = s.outIdx := by
  have hact : ∀ a : Action, exec a.toInstr s = .next t → t.outIdx = s.outIdx := by
    intro a ha
    obtain ⟨new, ht⟩ := execAction_writes ha
    rw [ht]
  cases i with
  | strobe | tick => rw [exec_interrupt_writes rfl h]
  | hostline asserted => obtain ⟨-, -, ⟨-, rfl⟩ | ⟨-, rfl⟩⟩ := execHostline_next h <;> rfl
  | rxPoll v b => obtain ⟨-, -, ⟨-, -, l, -, rfl⟩ | ⟨-, bs, -, rfl⟩⟩ := execRxPoll_next h <;> rfl
  | bellEnd =>
    obtain ⟨-, -, rfl⟩ := execBellEnd_next h
    obtain ⟨l, n, hdrive⟩ := driveBellTo_eq (bellInactive s.cfg) s
    rw [hdrive]
    rfl
  | drainStep => exact absurd rfl hdrain
  | activity =>
    obtain ⟨-, -, rfl | ⟨-, -, -, rfl⟩ | ⟨-, -, -, rfl⟩ | ⟨-, -, -, -, -, rfl⟩⟩ := execActivity_next h <;> rfl
  | raEnd =>
    obtain ⟨-, -, rfl⟩ := execRaEnd_next h
    rfl
  | dkPoll k =>
    obtain ⟨-, -, rfl | ⟨-, -, rfl⟩ | ⟨-, -, -, rfl⟩ | ⟨-, -, -, -, rfl⟩⟩ := execDkPoll_next h <;>
      simp [dispatch_eq]
  | reset => exact absurd rfl hreset
  | actNoop => exact hact .noop h
  | actBreak => exact hact .brk h
  | actAnswerback idx => exact hact (.answerback idx) h
  | actEscapeprefix p sel lit => exact hact (.escapePrefix p sel lit) h

theorem contents_of_isEmpty (he : isEmpty s = true) : contents s = [] := by
  have hcount : queueCount s = 0 := by
    simp only [isEmpty, beq_iff_eq] at he
    simp [queueCount, he]
  simp [contents, hcount]

/-- A STROBE appends its entry, or finds N - 1 entries and stores nothing (40_capture_queue.md R110, R116). -/
theorem execStrobe_contents {c : Byte} {k : KeyMask} (hs : Inv s) (h : execStrobe c k s = .next t) :
    contents t = if (contents s).length = s.cfg.par.n - 1 then contents s
      else contents s ++ [some (captureEntry s.cfg c k)] := by
  have hfull : isFull s = true ↔ (contents s).length = s.cfg.par.n - 1 := by
    rw [contents_length]
    exact isFull_iff_queueCount hs.in_lt hs.out_lt
  obtain ⟨hc, ⟨hf, rfl⟩ | ⟨hroom, -, rfl⟩⟩ := execStrobe_next h
  · rw [if_pos (hfull.mp hf)]
    exact contents_congr rfl rfl rfl rfl
  · rw [if_neg (by simp [← hfull, hroom])]
    exact contents_add _ (two_le_slots hc) hs.in_lt hs.out_lt hroom

/-- The output of an entry does not touch the queue it came from. -/
theorem contents_drainEntry (e : Entry) : contents (drainEntry e s) = contents s := by
  rw [drainEntry_eq]
  exact contents_congr rfl rfl rfl rfl

/-- A DRAIN_STEP takes the oldest entry, where there is one (41_drain_task.md R145). -/
theorem execDrainStep_contents (hs : Inv s) (h : execDrainStep s = .next t) : contents t = (contents s).tail := by
  obtain ⟨-, -, ⟨he, rfl⟩ | ⟨he, -, e, -, rfl⟩⟩ := execDrainStep_next h
  · rw [contents_of_isEmpty he, contents_of_isEmpty (s := { s with phase := .act }) he]
    rfl
  · rw [contents_drainEntry]
    exact contents_remove hs.in_lt hs.out_lt he

/-- RESET leaves `in = out` (70_reset_and_hazards.md R290). -/
theorem execReset_contents (h : execReset s = .next t) : contents t = [] := by
  obtain ⟨-, rfl⟩ := execReset_next h
  exact contents_of_isEmpty rfl

theorem execTick_contents (h : execTick s = .next t) : contents t = contents s := by
  obtain ⟨-, rfl⟩ := execTick_next h
  exact contents_congr rfl rfl rfl rfl

/-- The cooperative context moves `out`, and so the queue, by DRAIN_STEP only. -/
theorem exec_cooperative_contents {i : Instr} (hi : i.agent = .cooperative) (hdrain : i ≠ .drainStep)
    (h : exec i s = .next t) : contents t = contents s := by
  have hframe := exec_cooperative_frame hi h
  have hout : t.outIdx = s.outIdx := exec_keeps_outIdx hdrain (by rintro rfl; cases hi) h
  exact contents_congr hframe.slot hframe.inIdx hout hframe.cfg

end

/-- Settles O23, operation by operation. -/
theorem ringBufferRefinesAFifo : Obligations.RingBufferRefinesAFifo := by
  intro s t i hs h
  cases i with
  | strobe c k => exact execStrobe_contents hs h
  | drainStep => exact execDrainStep_contents hs h
  | reset => exact execReset_contents h
  | tick => exact execTick_contents h
  | hostline | rxPoll | bellEnd | activity | raEnd | dkPoll | actNoop | actBreak | actAnswerback | actEscapeprefix =>
    exact exec_cooperative_contents rfl (by simp) h

/-- Settles O24: `in` is not `out` on a queue that is not empty, so the cell written is another one, and the next `in` is not
`out` on a queue with room. -/
theorem strobeNeverOverwritesTheOldestEntry : Obligations.StrobeNeverOverwritesTheOldestEntry := by
  intro s t c k he h
  obtain ⟨-, ⟨-, rfl⟩ | ⟨hroom, -, rfl⟩⟩ := execStrobe_next h
  · exact ⟨he, rfl, rfl⟩
  · have hne : s.inIdx ≠ s.outIdx := by simpa [isEmpty] using he
    exact ⟨hroom, rfl, find_store_other _ _ _ _ hne.symm⟩

end Sys2Proof.Machine

/-! PROOFS. STROBE and TICK beside the cooperative context's fields (O55, 20_memory.md R76). -/

namespace Sys2Proof.Machine

/-- `s` with `out` and every field that R76 hides from the interrupt context taken from `u`. -/
def State.withCooperative (s u : State) : State :=
  { s with outIdx := u.outIdx, dkPrev := u.dkPrev, db := u.db, hs := u.hs, sent := u.sent, phase := u.phase, ind := u.ind,
           bellPin := u.bellPin, raPin := u.raPin, outv := u.outv }

section

variable {s u : State}

/-- Admission in every phase reads the configuration only (30_encoding.md R92). -/
theorem admitted_always_withCooperative {effect : State → Result}
    (h : effect (s.withCooperative u) = mapNext (·.withCooperative u) (effect s)) :
    admitted .always (s.withCooperative u) effect = mapNext (·.withCooperative u) (admitted .always s effect) := by
  have hcfg : (s.withCooperative u).cfg = s.cfg := rfl
  unfold admitted
  rw [hcfg, h]
  cases failedCheck s.cfg <;> rfl

theorem execStrobe_withCooperative (hfull : isFull (s.withCooperative u) = isFull s) (c : Byte) (k : KeyMask) :
    execStrobe c k (s.withCooperative u) = mapNext (·.withCooperative u) (execStrobe c k s) := by
  refine admitted_always_withCooperative ?_
  have hslots : (s.withCooperative u).inIdx < slotCount (s.withCooperative u) ↔ s.inIdx < slotCount s := Iff.rfl
  unfold add memWrite
  simp only [hfull, hslots]
  split_ifs <;> rfl

theorem execTick_withCooperative : execTick (s.withCooperative u) = mapNext (·.withCooperative u) (execTick s) :=
  admitted_always_withCooperative rfl

/-- R76: the cooperative context reaches an interrupt operation through `isFull` alone. -/
theorem exec_interrupt_withCooperative {i : Instr} (hi : i.agent = .interrupt)
    (hfull : isFull (s.withCooperative u) = isFull s) :
    exec i (s.withCooperative u) = mapNext (·.withCooperative u) (exec i s) := by
  cases i with
  | strobe c k => exact execStrobe_withCooperative hfull c k
  | tick => exact execTick_withCooperative
  | _ => cases hi

/-- Two changes of the next state that agree on every state an interrupt operation can answer are one. -/
theorem mapNext_interrupt_congr {i : Instr} (hi : i.agent = .interrupt) {f g : State → State}
    (hfg : ∀ slot inIdx ovf time, f { s with slot := slot, inIdx := inIdx, ovf := ovf, time := time } =
      g { s with slot := slot, inIdx := inIdx, ovf := ovf, time := time }) :
    mapNext f (exec i s) = mapNext g (exec i s) := by
  cases h : exec i s with
  | next t =>
    rw [exec_interrupt_writes hi h]
    exact congrArg Host.Outcome.next (hfg _ _ _ _)
  | fault | refused => rfl

end

/-- Settles O55. An interrupt operation writes no cooperative field (O53), so replacing some of them from `u` and the others
from `s` itself is to replace them all. -/
theorem interruptOperationsIgnoreCooperativeState : Obligations.InterruptOperationsIgnoreCooperativeState := by
  intro s u i hi
  refine ⟨?_, ?_, ?_⟩
  · have hall := exec_interrupt_withCooperative (s := s) (u := { u with outIdx := s.outIdx }) hi rfl
    exact hall.trans (mapNext_interrupt_congr hi fun _ _ _ _ => rfl)
  · cases h : exec i s with
    | next t => exact exec_keeps_outIdx (by rintro rfl; cases hi) (by rintro rfl; cases hi) h
    | fault | refused => trivial
  · intro o hfull
    have hall := exec_interrupt_withCooperative (s := s) (u := { s with outIdx := o }) hi hfull
    exact hall.trans (mapNext_interrupt_congr hi fun _ _ _ _ => rfl)

end Sys2Proof.Machine

/-! PROOFS. The algebra of bit fields: what a field of a laid-out word holds, and when two words agree field by field. -/

namespace Sys2Proof

@[simp] theorem getElem_field (w : Word) (lo len i : Nat) (hi : i < len) :
    (field w lo len)[i] = w.getLsbD (lo + i) := by
  simp [field]

@[simp] theorem getLsbD_place {len : Nat} (v : BitVec len) (lo i : Nat) :
    (place v lo).getLsbD i = (decide (i < 32) && (!decide (i < lo) && v.getLsbD (i - lo))) := by
  by_cases hi : i < 32 <;> simp [place, hi]

/-! ### Fields of a laid-out word -/

theorem field_or (a b : Word) (lo len : Nat) : field (a ||| b) lo len = field a lo len ||| field b lo len := by
  ext i hi
  simp

theorem field_and (a b : Word) (lo len : Nat) : field (a &&& b) lo len = field a lo len &&& field b lo len := by
  ext i hi
  simp

theorem field_zero (lo len : Nat) : field 0#32 lo len = 0#len := by
  ext i hi
  simp

/-- What was placed is read back. -/
theorem field_place_same {len : Nat} (v : BitVec len) (lo : Nat) (h : lo + len ≤ 32) : field (place v lo) lo len = v := by
  ext i hi
  rw [getElem_field, getLsbD_place]
  simp [hi, show lo + i < 32 by omega]

/-- What was placed elsewhere is not seen. -/
theorem field_place_disjoint {n : Nat} (v : BitVec n) (pos lo len : Nat) (h : lo + len ≤ pos ∨ pos + n ≤ lo) :
    field (place v pos) lo len = 0#len := by
  ext i hi
  rcases h with h | h
  · simp [show lo + i < pos by omega]
  · simp [BitVec.getLsbD_of_ge v (lo + i - pos) (by omega)]

/-- A single bit is a field of length 1. -/
theorem field_one (w : Word) (lo : Nat) : field w lo 1 = BitVec.ofBool (w.getLsbD lo) := by
  ext i hi
  simp [show i = 0 by omega]

theorem field_one_eq_ofBool {w : Word} {lo : Nat} {b : Bool} : field w lo 1 = BitVec.ofBool b ↔ w.getLsbD lo = b := by
  rw [field_one]
  cases w.getLsbD lo <;> cases b <;> decide

/-! ### Words that agree field by field -/

/-- Two words agree on a field exactly when they agree on its two parts. -/
theorem field_eq_iff_cut {w u : Word} (lo m n : Nat) :
    field w lo (m + n) = field u lo (m + n) ↔
      field w (lo + m) n = field u (lo + m) n ∧ field w lo m = field u lo m := by
  simp only [BitVec.eq_of_getElem_eq_iff, getElem_field]
  constructor
  · exact fun h => ⟨fun i hi => by simpa [Nat.add_assoc] using h (m + i) (by omega), fun i hi => h i (by omega)⟩
  · rintro ⟨hhigh, hlow⟩ i hi
    by_cases him : i < m
    · exact hlow i him
    · simpa [show lo + m + (i - m) = lo + i by omega] using hhigh (i - m) (by omega)

theorem eq_iff_field {w u : Word} : w = u ↔ field w 0 32 = field u 0 32 := by
  simp [field]

/-- The cut of R82: `op` and payload. -/
theorem eq_iff_op_payload {w u : Word} : w = u ↔ field w 28 4 = field u 28 4 ∧ field w 0 28 = field u 0 28 :=
  eq_iff_field.trans (field_eq_iff_cut 0 28 4)

/-- The payload cut into its reserved bits and the operand below them. -/
theorem eq_iff_op_reserved_operand {w u : Word} (n len : Nat) (h : n + len = 28) :
    w = u ↔ field w 28 4 = field u 28 4 ∧ field w n len = field u n len ∧ field w 0 n = field u 0 n := by
  have hcut := field_eq_iff_cut (w := w) (u := u) 0 n len
  rw [h, Nat.zero_add] at hcut
  rw [eq_iff_op_payload, hcut]

/-! ### Masks -/

@[simp] theorem place_zero (len lo : Nat) : place 0#len lo = 0#32 := by simp [place]

/-- A word under the mask of a field keeps that field only. -/
theorem and_place_ones (w : Word) (lo len : Nat) :
    w &&& place (BitVec.allOnes len) lo = place (field w lo len) lo := by
  apply BitVec.eq_of_getLsbD_eq
  intro i hi
  rw [BitVec.getLsbD_and, getLsbD_place, getLsbD_place]
  by_cases hlo : i < lo
  · simp [hlo]
  · by_cases hlen : i - lo < len
    · simp [hi, hlo, hlen, show lo + (i - lo) = i by omega]
    · simp [hi, hlo, hlen, BitVec.getLsbD_of_ge (field w lo len) (i - lo) (by omega)]

/-- A word under the mask of a field is zero exactly when the field is. -/
theorem and_mask_eq_zero_iff {w mask : Word} (lo len : Nat) (hlen : lo + len ≤ 32)
    (hmask : mask = place (BitVec.allOnes len) lo) : w &&& mask = 0#32 ↔ field w lo len = 0#len := by
  rw [hmask, and_place_ones]
  constructor
  · intro hw
    rw [← field_place_same (field w lo len) lo hlen, hw, field_zero]
  · intro hw
    rw [hw, place_zero]

/-- R90's mask and match: `op`, and reserved bits that are zero. -/
theorem and_row_eq_iff {w mask row : Word} {op : BitVec 4} (lo len : Nat) (hlen : lo + len ≤ 28)
    (hmask : mask = place (BitVec.allOnes 4) 28 ||| place (BitVec.allOnes len) lo) (hrow : row = place op 28) :
    w &&& mask = row ↔ field w 28 4 = op ∧ field w lo len = 0#len := by
  have hkept : w &&& mask = place (field w 28 4) 28 ||| place (field w lo len) lo := by
    rw [hmask, BitVec.and_or_distrib_left, and_place_ones, and_place_ones]
  rw [hkept, hrow]
  constructor
  · intro hw
    have hop := congrArg (field · 28 4) hw
    have hreserved := congrArg (field · lo len) hw
    simp (disch := omega) only [field_or, field_place_same, field_place_disjoint, BitVec.or_zero, BitVec.zero_or]
      at hop hreserved
    exact ⟨hop, hreserved⟩
  · rintro ⟨rfl, hreserved⟩
    rw [hreserved, place_zero, BitVec.or_zero]

end Sys2Proof

/-! PROOFS. The event decoder and its encoder (30_encoding.md R81 to R91). -/

namespace Sys2Proof

/-- R82 to R88: the fields of an event operation's word, with the reserved bits and the condition of R87. -/
def EventFields (w : Word) : Instr → Prop
  | .strobe c k => field w 28 4 = 0x1#4 ∧ field w 23 5 = 0#5 ∧ field w 8 15 = k ∧ field w 0 8 = c
  | .tick => field w 28 4 = 0x2#4 ∧ field w 0 28 = 0#28
  | .hostline s => field w 28 4 = 0x3#4 ∧ field w 1 27 = 0#27 ∧ field w 0 1 = BitVec.ofBool s
  | .rxPoll v b =>
    field w 28 4 = 0x4#4 ∧ field w 9 19 = 0#19 ∧ field w 8 1 = BitVec.ofBool v ∧ field w 0 8 = b ∧ rxOperandsOk v b = true
  | .bellEnd => field w 28 4 = 0x5#4 ∧ field w 0 28 = 0#28
  | .drainStep => field w 28 4 = 0x6#4 ∧ field w 0 28 = 0#28
  | .activity => field w 28 4 = 0x7#4 ∧ field w 0 28 = 0#28
  | .raEnd => field w 28 4 = 0x8#4 ∧ field w 0 28 = 0#28
  | .dkPoll k => field w 28 4 = 0x9#4 ∧ field w 15 13 = 0#13 ∧ field w 0 15 = k
  | .reset => field w 28 4 = 0xF#4 ∧ field w 0 28 = 0#28
  | .actNoop | .actBreak | .actAnswerback _ | .actEscapeprefix _ _ _ => False

theorem whenReservedClear_ok_iff {len : Nat} {α : Type} {reserved : BitVec len} {answer : Except Rejection α} {a : α} :
    whenReservedClear reserved answer = .ok a ↔ reserved = 0#len ∧ answer = .ok a := by
  unfold whenReservedClear
  split <;> simp [*]

theorem whenReservedClear_error_iff {len : Nat} {α : Type} {reserved : BitVec len} {answer : Except Rejection α} :
    (∃ r, whenReservedClear reserved answer = .error r) ↔ reserved ≠ 0#len ∨ ∃ r, answer = .error r := by
  unfold whenReservedClear
  split <;> simp [*]

theorem op_cases (op : BitVec 4) :
    op = 0x0#4 ∨ op = 0x1#4 ∨ op = 0x2#4 ∨ op = 0x3#4 ∨ op = 0x4#4 ∨ op = 0x5#4 ∨ op = 0x6#4 ∨ op = 0x7#4 ∨
      op = 0x8#4 ∨ op = 0x9#4 ∨ op = 0xA#4 ∨ op = 0xB#4 ∨ op = 0xC#4 ∨ op = 0xD#4 ∨ op = 0xE#4 ∨ op = 0xF#4 := by
  revert op
  decide

/-- The decoder reads exactly the fields, for each of the sixteen values of `op`. -/
theorem decodeEvent_ok_iff {w : Word} {i : Instr} : decodeEvent w = .ok i ↔ EventFields w i := by
  constructor
  · intro h
    rcases op_cases (field w 28 4) with
      hop | hop | hop | hop | hop | hop | hop | hop | hop | hop | hop | hop | hop | hop | hop | hop <;>
      simp only [decodeEvent, hop, BitVec.reduceEq, if_true, if_false, whenReservedClear_ok_iff, reduceCtorEq,
        Except.ok.injEq] at h <;>
      obtain ⟨hreserved, hanswer⟩ := h
    · exact hanswer ▸ ⟨hop, hreserved, rfl, rfl⟩
    · exact hanswer ▸ ⟨hop, hreserved⟩
    · exact hanswer ▸ ⟨hop, hreserved, field_one w 0⟩
    · split_ifs at hanswer with hbyte
      cases hanswer
      exact ⟨hop, hreserved, field_one w 8, rfl, hbyte⟩
    · exact hanswer ▸ ⟨hop, hreserved⟩
    · exact hanswer ▸ ⟨hop, hreserved⟩
    · exact hanswer ▸ ⟨hop, hreserved⟩
    · exact hanswer ▸ ⟨hop, hreserved⟩
    · exact hanswer ▸ ⟨hop, hreserved, rfl⟩
    · exact hanswer ▸ ⟨hop, hreserved⟩
  · intro h
    cases i with
    | strobe c k =>
      obtain ⟨hop, hreserved, rfl, rfl⟩ := h
      simp [decodeEvent, whenReservedClear, hop, hreserved]
    | hostline s =>
      obtain ⟨hop, hreserved, hs⟩ := h
      obtain rfl := field_one_eq_ofBool.mp hs
      simp [decodeEvent, whenReservedClear, hop, hreserved]
    | rxPoll v b =>
      obtain ⟨hop, hreserved, hv, rfl, hbyte⟩ := h
      obtain rfl := field_one_eq_ofBool.mp hv
      simpa [decodeEvent, whenReservedClear, hop, hreserved] using hbyte
    | dkPoll k =>
      obtain ⟨hop, hreserved, rfl⟩ := h
      simp [decodeEvent, whenReservedClear, hop, hreserved]
    | tick | bellEnd | drainStep | activity | raEnd | reset =>
      obtain ⟨hop, hreserved⟩ := h
      simp [decodeEvent, whenReservedClear, hop, hreserved]
    | actNoop | actBreak | actAnswerback | actEscapeprefix => cases h

/-- R82 to R89: an encoded event operation has its fields. -/
theorem eventFields_encode {i : Instr} (hspace : i.space = .eventWord) (hwf : i.wf = true) : EventFields (encode i) i := by
  cases i with
  | actNoop | actBreak | actAnswerback | actEscapeprefix => cases hspace
  | rxPoll v b =>
    refine ⟨?_, ?_, ?_, ?_, hwf⟩ <;>
      simp (disch := omega) only [encode, field_or, field_place_same, field_place_disjoint, BitVec.or_zero, BitVec.zero_or]
  | strobe | hostline | dkPoll | tick | bellEnd | drainStep | activity | raEnd | reset =>
    simp (disch := omega) only [EventFields, encode, field_or, field_place_same, field_place_disjoint, BitVec.or_zero,
      BitVec.zero_or, and_self]

/-- The fields of an operation are all of a word's bits. -/
theorem EventFields.unique {w u : Word} {i : Instr} (hw : EventFields w i) (hu : EventFields u i) : w = u := by
  cases i with
  | strobe c k =>
    obtain ⟨hop, hreserved, hk, hc⟩ := hw
    obtain ⟨uop, ureserved, uk, uc⟩ := hu
    refine (eq_iff_op_reserved_operand 23 5 rfl).mpr ⟨hop.trans uop.symm, hreserved.trans ureserved.symm, ?_⟩
    exact (field_eq_iff_cut 0 8 15).mpr ⟨hk.trans uk.symm, hc.trans uc.symm⟩
  | rxPoll v b =>
    obtain ⟨hop, hreserved, hv, hb, -⟩ := hw
    obtain ⟨uop, ureserved, uv, ub, -⟩ := hu
    refine (eq_iff_op_reserved_operand 9 19 rfl).mpr ⟨hop.trans uop.symm, hreserved.trans ureserved.symm, ?_⟩
    exact (field_eq_iff_cut 0 8 1).mpr ⟨hv.trans uv.symm, hb.trans ub.symm⟩
  | hostline s =>
    obtain ⟨hop, hreserved, hs⟩ := hw
    obtain ⟨uop, ureserved, us⟩ := hu
    exact (eq_iff_op_reserved_operand 1 27 rfl).mpr ⟨hop.trans uop.symm, hreserved.trans ureserved.symm, hs.trans us.symm⟩
  | dkPoll k =>
    obtain ⟨hop, hreserved, hk⟩ := hw
    obtain ⟨uop, ureserved, uk⟩ := hu
    exact (eq_iff_op_reserved_operand 15 13 rfl).mpr ⟨hop.trans uop.symm, hreserved.trans ureserved.symm, hk.trans uk.symm⟩
  | tick | bellEnd | drainStep | activity | raEnd | reset =>
    obtain ⟨hop, hpayload⟩ := hw
    obtain ⟨uop, upayload⟩ := hu
    exact eq_iff_op_payload.mpr ⟨hop.trans uop.symm, hpayload.trans upayload.symm⟩
  | actNoop | actBreak | actAnswerback | actEscapeprefix => cases hw

theorem EventFields.space {w : Word} {i : Instr} (h : EventFields w i) : i.space = .eventWord := by
  cases i with
  | actNoop | actBreak | actAnswerback | actEscapeprefix => cases h
  | _ => rfl

theorem EventFields.wf {w : Word} {i : Instr} (h : EventFields w i) : i.wf = true := by
  cases i with
  | actNoop | actBreak | actAnswerback | actEscapeprefix => cases h
  | rxPoll v b =>
    obtain ⟨-, -, -, -, hbyte⟩ := h
    exact hbyte
  | _ => rfl

/-- Settles O4: the encoded word has the fields the decoder reads. -/
theorem eventEncodingRoundTrip : Obligations.EventEncodingRoundTrip :=
  fun _ hspace hwf => decodeEvent_ok_iff.mpr (eventFields_encode hspace hwf)

/-- Settles O5: the word that decodes and the encoded one have the same fields, which are all of a word. -/
theorem eventDecodingLosesNothing : Obligations.EventDecodingLosesNothing := by
  intro w i h
  have hfields := decodeEvent_ok_iff.mp h
  exact ⟨hfields.wf, hfields.space, (eventFields_encode hfields.space hfields.wf).unique hfields⟩

end Sys2Proof

/-! PROOFS. Which words select an operation and which select none (O2, 30_encoding.md R90, R91). -/

namespace Sys2Proof

open Machine

/-! ### The rows of R90 -/

theorem strobe_row_iff {w : Word} : w &&& 0xFF800000#32 = 0x10000000#32 ↔ field w 28 4 = 0x1#4 ∧ field w 23 5 = 0#5 :=
  and_row_eq_iff 23 5 (by decide) (by decide) (by decide)

theorem hostline_row_iff {w : Word} : w &&& 0xFFFFFFFE#32 = 0x30000000#32 ↔ field w 28 4 = 0x3#4 ∧ field w 1 27 = 0#27 :=
  and_row_eq_iff 1 27 (by decide) (by decide) (by decide)

theorem rxPoll_row_iff {w : Word} : w &&& 0xFFFFFE00#32 = 0x40000000#32 ↔ field w 28 4 = 0x4#4 ∧ field w 9 19 = 0#19 :=
  and_row_eq_iff 9 19 (by decide) (by decide) (by decide)

theorem dkPoll_row_iff {w : Word} : w &&& 0xFFFF8000#32 = 0x90000000#32 ↔ field w 28 4 = 0x9#4 ∧ field w 15 13 = 0#13 :=
  and_row_eq_iff 15 13 (by decide) (by decide) (by decide)

/-- The row of an operation without operands. -/
theorem plain_row_iff {w row : Word} {op : BitVec 4} (hrow : row = place op 28) :
    w &&& 0xFFFFFFFF#32 = row ↔ field w 28 4 = op ∧ field w 0 28 = 0#28 :=
  and_row_eq_iff 0 28 (by decide) (by decide) hrow

/-- R87's condition on the bits of the word. -/
theorem rxOperandsOk_field_iff {w : Word} :
    rxOperandsOk (w.getLsbD 8) (field w 0 8) = true ↔ (w &&& 0x00000100#32 = 0#32 → w &&& 0x000000FF#32 = 0#32) := by
  have hv : w &&& 0x00000100#32 = 0#32 ↔ field w 8 1 = BitVec.ofBool false :=
    and_mask_eq_zero_iff 8 1 (by decide) (by decide)
  rw [hv, field_one_eq_ofBool, and_mask_eq_zero_iff 0 8 (by decide) (by decide)]
  cases w.getLsbD 8 <;> simp [rxOperandsOk]

/-- Settles O2, row by row. -/
theorem operationSelectedByMaskAndMatch : Obligations.OperationSelectedByMaskAndMatch := by
  intro w
  simp only [decodeEvent_ok_iff]
  have hplain := fun (row : Word) (op : BitVec 4) (hrow : row = place op 28) => (plain_row_iff (w := w) hrow).symm
  refine ⟨?_, hplain _ 0x2#4 (by decide), ?_, ?_, hplain _ 0x5#4 (by decide), hplain _ 0x6#4 (by decide),
    hplain _ 0x7#4 (by decide), hplain _ 0x8#4 (by decide), ?_, hplain _ 0xF#4 (by decide)⟩
  · simp [strobe_row_iff, EventFields]
  · simp [hostline_row_iff, EventFields, field_one_eq_ofBool]
  · simp [rxPoll_row_iff, EventFields, field_one_eq_ofBool, ← rxOperandsOk_field_iff, and_assoc]
  · simp [dkPoll_row_iff, EventFields]

/-! ### Illegal words -/

theorem shiftRight_eq_place_field (w : Word) : w >>> 28 = place (field w 28 4) 0 := by
  apply BitVec.eq_of_getLsbD_eq
  intro i hi
  rw [BitVec.getLsbD_ushiftRight, getLsbD_place]
  by_cases h : i < 4
  · simp [hi, h]
  · simp [BitVec.getLsbD_of_ge, show 4 ≤ i by omega, show 32 ≤ 28 + i by omega]

theorem exists_error_ite {α ε : Type} {p : Prop} [Decidable p] {a : α} {e : ε} :
    (∃ r, (if p then Except.ok a else Except.error e) = Except.error r) ↔ ¬p := by
  split <;> simp [*]

/-- R91, for each of the sixteen values of `op`. -/
theorem decodeEvent_error_iff {w : Word} : (∃ r, decodeEvent w = .error r) ↔ illegalWord w := by
  have hplain : w &&& 0x0FFFFFFF#32 = 0#32 ↔ field w 0 28 = 0#28 := and_mask_eq_zero_iff 0 28 (by decide) (by decide)
  have hstrobe : w &&& 0x0F800000#32 = 0#32 ↔ field w 23 5 = 0#5 := and_mask_eq_zero_iff 23 5 (by decide) (by decide)
  have hhost : w &&& 0x0FFFFFFE#32 = 0#32 ↔ field w 1 27 = 0#27 := and_mask_eq_zero_iff 1 27 (by decide) (by decide)
  have hrx : w &&& 0x0FFFFE00#32 = 0#32 ↔ field w 9 19 = 0#19 := and_mask_eq_zero_iff 9 19 (by decide) (by decide)
  have hdk : w &&& 0x0FFF8000#32 = 0#32 ↔ field w 15 13 = 0#13 := and_mask_eq_zero_iff 15 13 (by decide) (by decide)
  have hbyte : w &&& 0x00000100#32 = 0#32 ∧ w &&& 0x000000FF#32 ≠ 0#32 ↔ ¬rxOperandsOk w[8] (field w 0 8) = true :=
    Classical.not_imp.symm.trans (not_congr rxOperandsOk_field_iff.symm)
  have hshift := shiftRight_eq_place_field w
  rcases op_cases (field w 28 4) with
    hop | hop | hop | hop | hop | hop | hop | hop | hop | hop | hop | hop | hop | hop | hop | hop <;>
    rw [hop] at hshift <;>
    simp [decodeEvent, illegalWord, whenReservedClear_error_iff, exists_error_ite, place, hop, hshift, hplain, hstrobe,
      hhost, hrx, hdk, hbyte]

end Sys2Proof

/-! PROOFS. What is refused and what is performed (O3, O11, O18): an event operation is refused by its admission only. -/

namespace Sys2Proof.Machine

section

variable {s : State} {r : Refusal}

/-- Admission refuses under a failing configuration and outside the phase, and nowhere else (30_encoding.md R92,
70_reset_and_hazards.md R293). -/
def AdmissionRefuses (a : Admission) (s : State) (r : Refusal) : Prop :=
  (∃ c, failedCheck s.cfg = some c ∧ r = .unsupportedConfiguration c) ∨
    (failedCheck s.cfg = none ∧ phaseAdmits a s.phase = false ∧ r = .outOfPhase)

theorem admitted_refused_iff {a : Admission} {effect : State → Result} (h : ∀ r, effect s ≠ .refused r) :
    admitted a s effect = .refused r ↔ AdmissionRefuses a s r := by
  unfold admitted AdmissionRefuses
  cases failedCheck s.cfg with
  | some c => simp [eq_comm (a := r)]
  | none => cases phaseAdmits a s.phase <;> simp [h, eq_comm (a := r)]

theorem execStrobe_refused_iff (c : Byte) (k : KeyMask) :
    execStrobe c k s = .refused r ↔ AdmissionRefuses .always s r := by
  refine admitted_refused_iff fun r => ?_
  unfold orFault
  split
  · simp
  · dsimp only
    split <;> simp

theorem execTick_refused_iff : execTick s = .refused r ↔ AdmissionRefuses .always s r :=
  admitted_refused_iff fun _ => nofun

theorem execHostline_refused_iff (asserted : Bool) :
    execHostline asserted s = .refused r ↔ AdmissionRefuses (.only .idle) s r := by
  refine admitted_refused_iff fun r => ?_
  split <;> simp

theorem execRxPoll_refused_iff (v : Bool) (b : Byte) :
    execRxPoll v b s = .refused r ↔ AdmissionRefuses (.only .idle) s r := by
  refine admitted_refused_iff fun r => ?_
  dsimp only
  split <;> split <;> simp

theorem execBellEnd_refused_iff : execBellEnd s = .refused r ↔ AdmissionRefuses (.only .bellWait) s r :=
  admitted_refused_iff fun _ => nofun

theorem execDrainStep_refused_iff : execDrainStep s = .refused r ↔ AdmissionRefuses (.only .drain) s r := by
  refine admitted_refused_iff fun r => ?_
  unfold orFault
  split
  · simp
  · split <;> simp

theorem execActivity_refused_iff : execActivity s = .refused r ↔ AdmissionRefuses (.only .act) s r := by
  refine admitted_refused_iff fun r => ?_
  split_ifs <;> simp

theorem execRaEnd_refused_iff : execRaEnd s = .refused r ↔ AdmissionRefuses (.only .raWait) s r :=
  admitted_refused_iff fun _ => nofun

theorem execDkPoll_refused_iff (k : KeyMask) : execDkPoll k s = .refused r ↔ AdmissionRefuses (.only .dkPoll) s r := by
  refine admitted_refused_iff fun r => ?_
  split
  · simp
  · simp
  · split <;> simp

theorem execReset_refused_iff : execReset s = .refused r ↔ AdmissionRefuses .always s r :=
  admitted_refused_iff fun _ => nofun

/-- No event operation is refused but by its admission. -/
theorem exec_refused_iff {i : Instr} (hi : i.space = .eventWord) :
    exec i s = .refused r ↔ AdmissionRefuses (admissionOf i) s r := by
  cases i with
  | strobe c k => exact execStrobe_refused_iff c k
  | tick => exact execTick_refused_iff
  | hostline asserted => exact execHostline_refused_iff asserted
  | rxPoll v b => exact execRxPoll_refused_iff v b
  | bellEnd => exact execBellEnd_refused_iff
  | drainStep => exact execDrainStep_refused_iff
  | activity => exact execActivity_refused_iff
  | raEnd => exact execRaEnd_refused_iff
  | dkPoll k => exact execDkPoll_refused_iff k
  | reset => exact execReset_refused_iff
  | actNoop | actBreak | actAnswerback | actEscapeprefix => cases hi

/-- Under a legal configuration: out of phase exactly outside the admitting phase. -/
theorem exec_outOfPhase_iff {i : Instr} (hi : i.space = .eventWord) (hc : failedCheck s.cfg = none) :
    exec i s = .refused .outOfPhase ↔ phaseAdmits (admissionOf i) s.phase = false := by
  rw [exec_refused_iff hi]
  simp [AdmissionRefuses, hc]

/-- An event operation that its phase admits completes under the invariant, where none faults (O17). -/
theorem exec_completes {i : Instr} (hs : Inv s) (hi : i.space = .eventWord)
    (hp : phaseAdmits (admissionOf i) s.phase = true) : ∃ t, exec i s = .next t := by
  cases h : exec i s with
  | next t => exact ⟨t, rfl⟩
  | fault f =>
    have hno := noFault_exec hs i
    simp [h, noFault] at hno
  | refused r =>
    have hr := (exec_refused_iff hi).mp h
    simp [AdmissionRefuses, hs.cfg_ok, hp] at hr

end

/-- Settles O11: an operation is out of phase by its admission only. -/
theorem admissionByPhase : Obligations.AdmissionByPhase := by
  constructor
  · intro s hc
    have hadmit := fun (i : Instr) (hi : i.space = .eventWord) => exec_outOfPhase_iff hi hc
    have hcoop : ∀ (i : Instr) (p : Phase), i.space = .eventWord → admissionOf i = .only p →
        (exec i s = .refused .outOfPhase ↔ s.phase ≠ p) := by
      intro i p hi ha
      simp [hadmit i hi, ha, phaseAdmits]
    have hfree : ∀ i : Instr, i.space = .eventWord → admissionOf i = .always → exec i s ≠ .refused .outOfPhase := by
      intro i hi ha
      simp [hadmit i hi, ha, phaseAdmits]
    exact ⟨fun _ _ => hfree _ rfl rfl, hfree _ rfl rfl, hfree _ rfl rfl, fun _ _ => hcoop _ _ rfl rfl,
      fun _ => hcoop _ _ rfl rfl, hcoop _ _ rfl rfl, hcoop _ _ rfl rfl, hcoop _ _ rfl rfl, hcoop _ _ rfl rfl,
      fun _ => hcoop _ _ rfl rfl⟩
  · intro p
    cases p <;> decide

/-- Settles O18: what is admitted is neither refused nor, under the invariant, a fault. -/
theorem admittedOperationsComplete : Obligations.AdmittedOperationsComplete := by
  intro s w rest i hs htrace hdecode hp
  rw [step_of_trace_cons htrace hdecode]
  exact exec_completes (s := { s with trace := rest }) hs.free (decodeEvent_ok_iff.mp hdecode).space hp

/-- Settles O3: a word that decodes is not refused as an illegal encoding by its operation either. -/
theorem illegalWordsAreRefused : Obligations.IllegalWordsAreRefused := by
  intro s w rest htrace
  rw [← decodeEvent_error_iff]
  cases hdecode : decodeEvent w with
  | error e => simp [step, fetch, htrace, hdecode]
  | ok i =>
    rw [step_of_trace_cons htrace hdecode, exec_refused_iff (decodeEvent_ok_iff.mp hdecode).space]
    simp [AdmissionRefuses]

end Sys2Proof.Machine

/-! PROOFS. The action descriptors, the joint reading of both spaces, and the words of the spec (O6, O7, O1; 30_encoding.md
R93, R100 to R105). -/

namespace Sys2Proof

/-- R101 to R104: the fields of an action's descriptor, with the reserved bits and the conditions of R103 and R104. -/
def ActionFields (w : Word) : Action → Prop
  | .noop => field w 0 2 = 0#2 ∧ field w 2 30 = 0#30
  | .brk => field w 0 2 = 1#2 ∧ field w 2 30 = 0#30
  | .answerback idx => field w 0 2 = 2#2 ∧ field w 4 28 = 0#28 ∧ field w 2 2 = idx ∧ answerbackIndexOk idx = true
  | .escapePrefix p sel lit =>
    field w 0 2 = 3#2 ∧ field w 2 2 = 0#2 ∧ field w 5 3 = 0#3 ∧ field w 24 8 = 0#8 ∧
      field w 4 1 = BitVec.ofBool p ∧ field w 8 8 = sel ∧ field w 16 8 = lit ∧ selectorOk p sel = true

theorem kind_cases (kind : BitVec 2) : kind = 0#2 ∨ kind = 1#2 ∨ kind = 2#2 ∨ kind = 3#2 := by
  revert kind
  decide

/-- The decoder reads exactly the fields. -/
theorem decodeAction_ok_iff {w : Word} {a : Action} : decodeAction w = .ok a ↔ ActionFields w a := by
  constructor
  · intro h
    dsimp only [decodeAction] at h
    split_ifs at h with h0 h1 h2 hidx hsel <;> simp only [whenReservedClear_ok_iff] at h
    · obtain ⟨hreserved, hanswer⟩ := h
      cases hanswer
      exact ⟨h0, hreserved⟩
    · obtain ⟨hreserved, hanswer⟩ := h
      cases hanswer
      exact ⟨h1, hreserved⟩
    · obtain ⟨hreserved, hanswer⟩ := h
      cases hanswer
      exact ⟨h2, hreserved, rfl, hidx⟩
    · simp at h
    · obtain ⟨hlow, hmid, hhigh, hanswer⟩ := h
      cases hanswer
      have h3 : field w 0 2 = 3#2 := by simpa [h0, h1, h2] using kind_cases (field w 0 2)
      exact ⟨h3, hlow, hmid, hhigh, field_one w 4, rfl, rfl, hsel⟩
    · simp at h
  · intro h
    cases a with
    | noop | brk =>
      obtain ⟨hkind, hreserved⟩ := h
      simp [decodeAction, whenReservedClear, hkind, hreserved]
    | answerback idx =>
      obtain ⟨hkind, hreserved, rfl, hidx⟩ := h
      simp [decodeAction, whenReservedClear, hkind, hreserved, hidx]
    | escapePrefix p sel lit =>
      obtain ⟨hkind, hlow, hmid, hhigh, hp, rfl, rfl, hsel⟩ := h
      obtain rfl := field_one_eq_ofBool.mp hp
      simpa [decodeAction, whenReservedClear, hkind, hlow, hmid, hhigh] using hsel

/-- R101 to R104: an encoded action has its fields. -/
theorem actionFields_encode {a : Action} (hwf : a.wf = true) : ActionFields (encode a.toInstr) a := by
  cases a with
  | noop | brk => constructor <;> decide
  | answerback idx =>
    refine ⟨?_, ?_, ?_, hwf⟩ <;>
      simp (disch := omega) only [Action.toInstr, encode, field_or, field_place_same, field_place_disjoint, BitVec.or_zero,
        BitVec.zero_or]
  | escapePrefix p sel lit =>
    refine ⟨?_, ?_, ?_, ?_, ?_, ?_, ?_, hwf⟩ <;>
      simp (disch := omega) only [Action.toInstr, encode, field_or, field_place_same, field_place_disjoint, BitVec.or_zero,
        BitVec.zero_or]

/-- The fields of an action are all of a descriptor's bits. -/
theorem ActionFields.unique {w u : Word} {a : Action} (hw : ActionFields w a) (hu : ActionFields u a) : w = u := by
  cases a with
  | noop | brk =>
    obtain ⟨hkind, hreserved⟩ := hw
    obtain ⟨ukind, ureserved⟩ := hu
    refine eq_iff_field.mpr ((field_eq_iff_cut 0 2 30).mpr ⟨?_, hkind.trans ukind.symm⟩)
    exact hreserved.trans ureserved.symm
  | answerback idx =>
    obtain ⟨hkind, hreserved, hidx, -⟩ := hw
    obtain ⟨ukind, ureserved, uidx, -⟩ := hu
    refine eq_iff_field.mpr ((field_eq_iff_cut 0 2 30).mpr ⟨?_, hkind.trans ukind.symm⟩)
    exact (field_eq_iff_cut 2 2 28).mpr ⟨hreserved.trans ureserved.symm, hidx.trans uidx.symm⟩
  | escapePrefix p sel lit =>
    obtain ⟨hkind, hlow, hmid, hhigh, hp, hsel, hlit, -⟩ := hw
    obtain ⟨ukind, ulow, umid, uhigh, up, usel, ulit, -⟩ := hu
    refine eq_iff_field.mpr ((field_eq_iff_cut 0 2 30).mpr ⟨?_, hkind.trans ukind.symm⟩)
    refine (field_eq_iff_cut 2 2 28).mpr ⟨?_, hlow.trans ulow.symm⟩
    refine (field_eq_iff_cut 4 1 27).mpr ⟨?_, hp.trans up.symm⟩
    refine (field_eq_iff_cut 5 3 24).mpr ⟨?_, hmid.trans umid.symm⟩
    refine (field_eq_iff_cut 8 8 16).mpr ⟨?_, hsel.trans usel.symm⟩
    exact (field_eq_iff_cut 16 8 8).mpr ⟨hhigh.trans uhigh.symm, hlit.trans ulit.symm⟩

theorem ActionFields.wf {w : Word} {a : Action} (h : ActionFields w a) : a.wf = true := by
  cases a with
  | noop | brk => rfl
  | answerback idx =>
    obtain ⟨-, -, -, hidx⟩ := h
    exact hidx
  | escapePrefix p sel lit =>
    obtain ⟨-, -, -, -, -, -, -, hsel⟩ := h
    exact hsel

theorem decodeAction_encode {a : Action} (hwf : a.wf = true) : decodeAction (encode a.toInstr) = .ok a :=
  decodeAction_ok_iff.mpr (actionFields_encode hwf)

/-- Settles O6: both directions by the fields of the descriptor. -/
theorem actionEncodingRoundTrip : Obligations.ActionEncodingRoundTrip := by
  refine ⟨fun a hwf => decodeAction_encode hwf, fun w a h => ?_⟩
  have hfields := decodeAction_ok_iff.mp h
  exact ⟨hfields.wf, (actionFields_encode hfields.wf).unique hfields⟩

/-! ### Both spaces in one reading -/

theorem tableWord_toNat (w : Word) : tableWord 32 w.toNat = some w := by
  simp [tableWord, Nat.mod_eq_of_lt w.isLt, w.isLt]

/-- A descriptor has the reserved `op` 0 of the event space. -/
theorem decodeEvent_encode_action (a : Action) : decodeEvent (encode a.toInstr) = .error .reservedOpcode := by
  have hop : field (encode a.toInstr) 28 4 = 0#4 := by
    cases a <;>
      simp (disch := omega) only [Action.toInstr, encode, field_or, field_place_disjoint, BitVec.or_zero]
  simp [decodeEvent, hop]

theorem exists_action_of_space {i : Instr} (h : i.space = .actionDescriptor) :
    ∃ a : Action, a.toInstr = i ∧ a.wf = i.wf := by
  cases i with
  | actNoop => exact ⟨.noop, rfl, rfl⟩
  | actBreak => exact ⟨.brk, rfl, rfl⟩
  | actAnswerback idx => exact ⟨.answerback idx, rfl, rfl⟩
  | actEscapeprefix p sel lit => exact ⟨.escapePrefix p sel lit, rfl, rfl⟩
  | _ => cases h

/-- Settles O7: an event word is read in the first space; a descriptor's reserved `op` sends it to the second. -/
theorem tableWordRoundTrip : Obligations.TableWordRoundTrip := by
  intro i hwf
  rw [decodeTableWord, tableWord_toNat]
  cases hspace : i.space with
  | eventWord => simp [decode, eventEncodingRoundTrip i hspace hwf]
  | actionDescriptor =>
    obtain ⟨a, rfl, hawf⟩ := exists_action_of_space hspace
    simp [decode, decodeEvent_encode_action, decodeAction_encode (hawf.trans hwf), Except.map, Except.toOption]

/-- Settles O1: closed words. -/
theorem specWordsDecode : Obligations.SpecWordsDecode := by
  unfold Obligations.SpecWordsDecode
  decide

end Sys2Proof

/-! PROOFS. The model's own placement of a word (O10; logs 3, 4 and 5). -/

namespace Sys2Proof.Machine

theorem failedCheck_eq_none_iff {c : Config} :
    failedCheck c = none ↔
      dkCountOk c = true ∧ dkModeOk c = true ∧ dkReservedMaskOk c = true ∧ actionsOk c = true ∧ capacityOk c = true := by
  unfold failedCheck
  split_ifs <;> simp_all

theorem descriptorOk_of_decodeAction {w : Word} {a : Action} (h : decodeAction w = .ok a) : descriptorOk w = true := by
  simp [descriptorOk, h]

/-- The configuration with a placed descriptor passes its checks: one key, polled, no mask. -/
theorem failedCheck_placeAction {s : State} {w : Word} (hc : failedCheck s.cfg = none) (hw : descriptorOk w = true) :
    failedCheck (placeAction w s).cfg = none := by
  obtain ⟨-, -, -, hactions, hcapacity⟩ := failedCheck_eq_none_iff.mp hc
  refine failedCheck_eq_none_iff.mpr ⟨rfl, rfl, by simp [dkReservedMaskOk, placeAction, popcount], ?_, hcapacity⟩
  have hrest : ∀ d ∈ s.cfg.action, descriptorOk d = true := by simpa [actionsOk] using hactions
  simp only [actionsOk, placeAction, List.all_cons, hw, Bool.true_and, List.all_eq_true]
  exact fun d hd => hrest d (List.mem_of_mem_tail hd)

/-- A DK_POLL without a window dispatches its sample at once (42_debounce.md R185); where key 1 alone is newly pressed, that
is its action. -/
theorem execDkPoll_first_key {s : State} {a : Action} (hc : failedCheck s.cfg = none) (hp : s.phase = .dkPoll)
    (hmode : s.cfg.dkMode = .poll) (hwindow : s.cfg.debounceWindow = 0) (hsample : dkSample s.cfg 1#15 = 1#15)
    (hprev : s.dkPrev = 0#15) (ha : actionOf s.cfg 0 = a) :
    execDkPoll 1#15 s =
      .next { s with phase := .idle, ind := actionInd a true s.ind, outv := s.outv ++ actionEvents s.cfg a true,
                     dkPrev := 1#15 } := by
  have hkeys : changedKeys 0#15 1#15 = [0] := by decide
  unfold execDkPoll
  rw [admitted_eq _ hc (by simp [phaseAdmits, hp])]
  simp [hmode, debounce, hwindow, hsample, goPhase, dispatch_eq, dispatchInd, dispatchEvents, hprev, hkeys, ha]

/-- A placed descriptor is run, pressed, by the next step. -/
theorem step_placeAction {s : State} {w : Word} {a : Action} (hc : failedCheck s.cfg = none) (hw : decodeAction w = .ok a) :
    ∃ t, step (placeAction w s) = .next t ∧
      t.outv = s.outv ++ actionEvents s.cfg a true ∧ t.ind = actionInd a true s.ind := by
  have hpoll : decodeEvent (encode (.dkPoll 1#15)) = .ok (.dkPoll 1#15) := eventEncodingRoundTrip _ rfl rfl
  have hlegal := failedCheck_placeAction hc (descriptorOk_of_decodeAction hw)
  have hsample : dkSample (placeAction w s).cfg 1#15 = 1#15 := by simp [dkSample, dkMask, lowbits, placeAction]
  have haction : actionOf (placeAction w s).cfg 0 = a := by simp [actionOf, actionWord, placeAction, hw]
  have hevents : actionEvents s.cfg a true = actionEvents (placeAction w s).cfg a true := by cases a <;> rfl
  have hrun := execDkPoll_first_key (s := { placeAction w s with trace := s.trace }) hlegal rfl rfl rfl hsample rfl haction
  rw [step_of_trace_cons rfl hpoll, hevents]
  exact ⟨_, hrun, rfl, rfl⟩

/-- Settles O10: by the round trip of its space, the placed word is the one that the next step reads. -/
theorem placedWordRunsNext : Obligations.PlacedWordRunsNext := by
  constructor
  · intro s i hspace hwf
    have hdecode := eventEncodingRoundTrip i hspace hwf
    simp only [State.withFetchWord, tableWord_toNat, placeWord, decode, hdecode]
    exact step_of_trace_cons rfl hdecode
  · intro s a hwf hc
    have hdecode := decodeAction_encode hwf
    simp only [State.withFetchWord, tableWord_toNat, placeWord, decode, decodeEvent_encode_action,
      descriptorOk_of_decodeAction hdecode, if_true]
    exact step_placeAction hc hdecode

end Sys2Proof.Machine

/-! PROOFS. A legal configuration survives its packing (O13; 30_encoding.md R95). -/

namespace Sys2Proof.Machine

@[simp] theorem parityModeOfCode_parityModeCode (m : ParityMode) : parityModeOfCode (parityModeCode m) = some m := by
  cases m <;> decide

@[simp] theorem dkModeOfCode_dkModeCode (m : DkMode) : dkModeOfCode (dkModeCode m) = some m := by
  cases m <;> decide

@[simp] theorem bellModeOfCode_bellModeCode (m : BellMode) : bellModeOfCode (bellModeCode m) = some m := by
  cases m <;> decide

@[simp] theorem raModeOfCode_raModeCode (m : RaMode) : raModeOfCode (raModeCode m) = some m := by
  cases m <;> decide

/-- CFG0 below the selector's bits: what R95 places there is read back, with and without a selector above it. -/
theorem field_packConfig_cfg0 (c : Config) :
    field (packConfig c).cfg0 0 8 = c.charMask ∧
    field (packConfig c).cfg0 8 2 = parityModeCode c.parityMode ∧
    field (packConfig c).cfg0 10 1 = BitVec.ofBool c.invert ∧
    field (packConfig c).cfg0 11 4 = BitVec.ofNat 4 c.dkCount ∧
    field (packConfig c).cfg0 15 2 = dkModeCode c.dkMode ∧
    field (packConfig c).cfg0 17 2 = bellModeCode c.bellMode ∧
    field (packConfig c).cfg0 19 2 = raModeCode c.raMode ∧
    field (packConfig c).cfg0 21 1 = BitVec.ofBool (c.raPolarity == .activeHigh) ∧
    field (packConfig c).cfg0 22 1 = BitVec.ofBool (c.strobeEdge == .rising) := by
  cases hsel : c.escSelector <;>
    simp (disch := omega) only [packConfig, hsel, field_or, field_place_same, field_place_disjoint,
      BitVec.or_zero, BitVec.zero_or, and_self]

/-- CFG0's selector byte and its flag. -/
theorem selector_packConfig_cfg0 (c : Config) :
    field (packConfig c).cfg0 23 1 = BitVec.ofBool c.escSelector.isSome ∧
    field (packConfig c).cfg0 24 8 = c.escSelector.getD 0#8 := by
  cases hsel : c.escSelector <;>
    simp (disch := omega) only [packConfig, hsel, field_or, field_place_same, field_place_disjoint,
      BitVec.or_zero, BitVec.zero_or] <;>
    exact ⟨rfl, rfl⟩

/-- CFG1 and CFG2: the four masks, and the reserved bits above them. -/
theorem field_packConfig_masks (c : Config) :
    field (packConfig c).cfg1 0 15 = c.dkInvertMask ∧
    field (packConfig c).cfg1 15 15 = c.dkReservedMask ∧
    field (packConfig c).cfg1 30 2 = 0#2 ∧
    field (packConfig c).cfg2 0 15 = c.escMask ∧
    field (packConfig c).cfg2 15 8 = c.charPullupMask ∧
    field (packConfig c).cfg2 23 9 = 0#9 := by
  simp (disch := omega) only [packConfig, field_or, field_place_same, field_place_disjoint, BitVec.or_zero,
    BitVec.zero_or, and_self]

theorem reservedBitsClear_packConfig (c : Config) : reservedBitsClear (packConfig c) = true := by
  obtain ⟨-, -, hcfg1, -, -, hcfg2⟩ := field_packConfig_masks c
  obtain ⟨hflag, hsel⟩ := selector_packConfig_cfg0 c
  rw [reservedBitsClear, hcfg1, hcfg2, hsel, field_one_eq_ofBool.mp hflag]
  cases c.escSelector <;> rfl

/-- The packed words spell the record. -/
theorem recordOfWords_packConfig {c : Config} (hcount : c.dkCount ≤ 15) (hfits : timesFit c = true)
    (hactions : c.action.length ≤ 15) : recordOfWords (packConfig c) = .ok c := by
  obtain ⟨hcharMask, hparity, hinvert, hdkCount, hdkMode, hbell, hra, hpolarity, hedge⟩ := field_packConfig_cfg0 c
  obtain ⟨hflag, hsel⟩ := selector_packConfig_cfg0 c
  obtain ⟨hdkInvert, hdkReserved, -, hesc, hpullup, -⟩ := field_packConfig_masks c
  obtain ⟨-, hwindow, hdelay⟩ := timesFit_iff.mp hfits
  have hcountBits : (BitVec.ofNat 4 c.dkCount).toNat = c.dkCount := by simp; omega
  have hselector : (if c.escSelector.isSome = true then some (c.escSelector.getD 0#8) else none) = c.escSelector := by
    cases c.escSelector <;> rfl
  have hpol : (if (c.raPolarity == .activeHigh) = true then Polarity.activeHigh else .activeLow) = c.raPolarity := by
    cases c.raPolarity <;> rfl
  have hrising : (if (c.strobeEdge == .rising) = true then Edge.rising else .falling) = c.strobeEdge := by
    cases c.strobeEdge <;> rfl
  have hwindowBits : (packConfig c).cfg3 % 2 ^ (packConfig c).par.tw = c.debounceWindow := Nat.mod_eq_of_lt hwindow
  have hdelayBits : (packConfig c).cfg4 % 2 ^ (packConfig c).par.tw = c.raDelay := Nat.mod_eq_of_lt hdelay
  have haction : (packConfig c).act.take 15 = c.action := List.take_of_length_le hactions
  unfold recordOfWords
  rw [hparity, hdkMode, hbell, hra, parityModeOfCode_parityModeCode, dkModeOfCode_dkModeCode, bellModeOfCode_bellModeCode,
    raModeOfCode_raModeCode]
  simp only [reservedBitsClear_packConfig, if_true]
  rw [hcharMask, field_one_eq_ofBool.mp hinvert, hdkCount, hcountBits, hdkInvert, hdkReserved, hesc,
    field_one_eq_ofBool.mp hflag, hsel, hselector, field_one_eq_ofBool.mp hpolarity, hpol, haction,
    field_one_eq_ofBool.mp hedge, hrising, hpullup, hwindowBits, hdelayBits]
  rfl

/-- Settles O13: the packed words spell the record, and the record passes its checks. -/
theorem packedConfigurationLoads : Obligations.PackedConfigurationLoads := by
  intro c hc hfits hactions
  obtain ⟨hcount, -⟩ := failedCheck_eq_none_iff.mp hc
  have hrecord := recordOfWords_packConfig (by simpa [dkCountOk] using hcount) hfits hactions
  simp [loadConfig, hrecord, hc]

end Sys2Proof.Machine

/-! PROOFS. An uninterrupted invocation, phase by phase, from its last operation back to its first (O34; 41_drain_task.md R162,
30_encoding.md R94). -/

namespace Sys2Proof.Machine

section

variable {s t u : State} {k : KeyMask}

/-! ### The phase each cooperative operation leads to (10_state.md R25) -/

theorem execDkPoll_phase (h : execDkPoll k s = .next t) : t.phase = .idle := by
  obtain ⟨-, -, rfl | ⟨-, -, rfl⟩ | ⟨-, -, -, rfl⟩ | ⟨-, -, -, -, rfl⟩⟩ := execDkPoll_next h <;> rfl

theorem execRaEnd_phase (h : execRaEnd s = .next t) : t.phase = .dkPoll := by
  obtain ⟨-, -, rfl⟩ := execRaEnd_next h
  rfl

theorem execActivity_phase (h : execActivity s = .next t) : t.phase = .dkPoll ∨ t.phase = .raWait := by
  obtain ⟨-, -, rfl | ⟨-, -, -, rfl⟩ | ⟨-, -, -, rfl⟩ | ⟨-, -, -, -, -, rfl⟩⟩ := execActivity_next h
  · exact .inl rfl
  · exact .inr rfl
  · exact .inl rfl
  · exact .inr rfl

theorem contents_eq_nil_iff (hs : Inv s) : contents s = [] ↔ isEmpty s = true := by
  rw [isEmpty_iff_queueCount hs.in_lt hs.out_lt, ← contents_length, List.length_eq_zero_iff]

/-- The drain goes on while an entry is queued. -/
theorem execDrainStep_phase (hs : Inv s) (h : execDrainStep s = .next t) :
    t.phase = if contents s = [] then .act else .drain := by
  have hempty := contents_eq_nil_iff hs
  obtain ⟨-, hp, ⟨he, rfl⟩ | ⟨he, -, e, -, rfl⟩⟩ := execDrainStep_next h
  · simp [hempty, he]
  · simp [hempty, he, drainEntry_eq, hp]

theorem execBellEnd_phase (h : execBellEnd s = .next t) : t.phase = .drain := by
  obtain ⟨-, -, rfl⟩ := execBellEnd_next h
  rfl

/-- A BEL in a mode that has a bell starts its pulse. -/
theorem execRxPoll_phase {v : Bool} {b : Byte} (h : execRxPoll v b s = .next t) :
    t.phase = if v = true ∧ b = Config.bel ∧ s.cfg.bellMode ≠ .none then .bellWait else .drain := by
  obtain ⟨-, -, ⟨hv, hb, l, hl, rfl⟩ | ⟨hno, bs, -, rfl⟩⟩ := execRxPoll_next h
  · have hmode : s.cfg.bellMode ≠ .none := fun hm => by simp [bellActive, hm] at hl
    rw [if_pos ⟨hv, hb, hmode⟩]
  · rw [if_neg hno]

/-! ### The rest of an invocation -/

/-- The rest of an invocation from `s` is `is`, and they run to IDLE with the queue empty. -/
def RunsToEnd (k : KeyMask) (fuel : Nat) (is : List Instr) (s : State) : Prop :=
  taskRest k fuel s = is ∧ ∃ t, execAll is s = .next t ∧ t.phase = .idle ∧ contents t = []

/-- An invocation from its ACTIVITY on, with or without the ready/ack pulse. -/
def opsFromActivity (k : KeyMask) (ra : Bool) : List Instr :=
  .activity :: ((if ra then [.raEnd] else []) ++ [.dkPoll k])

/-- An invocation from its first DRAIN_STEP on, with `m` entries queued. -/
def opsFromDrain (k : KeyMask) (ra : Bool) (m : Nat) : List Instr :=
  List.replicate (m + 1) .drainStep ++ opsFromActivity k ra

theorem RunsToEnd.nil (fuel : Nat) (hp : s.phase = .idle) (hq : contents s = []) : RunsToEnd k fuel [] s := by
  refine ⟨?_, s, rfl, hp, hq⟩
  cases fuel <;> simp [taskRest, taskOp, hp]

theorem RunsToEnd.cons {fuel : Nat} {is : List Instr} {i : Instr} (hop : taskOp k s.phase = some i)
    (hexec : exec i s = .next u) (hrest : RunsToEnd k fuel is u) : RunsToEnd k (fuel + 1) (i :: is) s := by
  obtain ⟨hops, t, hrun, hend⟩ := hrest
  exact ⟨by simp [taskRest, hop, hexec, hops], t, by simp [execAll, hexec, hrun], hend⟩

/-- What a phase enables completes under the invariant. -/
theorem taskOp_completes {i : Instr} (hs : Inv s) (hop : taskOp k s.phase = some i) : ∃ u, exec i s = .next u ∧ Inv u := by
  have hadmits : i.space = .eventWord ∧ phaseAdmits (admissionOf i) s.phase = true := by
    cases hp : s.phase <;> simp only [hp, taskOp, Option.some.injEq, reduceCtorEq] at hop <;> subst hop <;>
      simp [admissionOf, phaseAdmits, Instr.space]
  obtain ⟨u, hu⟩ := exec_completes hs hadmits.1 hadmits.2
  exact ⟨u, hu, exec_keeps_inv hs hu⟩

theorem runsToEnd_dkPoll (n : Nat) (hs : Inv s) (hp : s.phase = .dkPoll) (hq : contents s = []) :
    RunsToEnd k (n + 1) [.dkPoll k] s := by
  have hop : taskOp k s.phase = some (.dkPoll k) := by rw [hp]; rfl
  obtain ⟨u, hu, -⟩ := taskOp_completes hs hop
  have hqu : contents u = contents s := exec_cooperative_contents rfl (by simp) hu
  exact .cons hop hu (.nil n (execDkPoll_phase hu) (hqu.trans hq))

theorem runsToEnd_raWait (n : Nat) (hs : Inv s) (hp : s.phase = .raWait) (hq : contents s = []) :
    RunsToEnd k (n + 2) [.raEnd, .dkPoll k] s := by
  have hop : taskOp k s.phase = some .raEnd := by rw [hp]; rfl
  obtain ⟨u, hu, hinv⟩ := taskOp_completes hs hop
  have hqu : contents u = contents s := exec_cooperative_contents rfl (by simp) hu
  exact .cons hop hu (runsToEnd_dkPoll n hinv (execRaEnd_phase hu) (hqu.trans hq))

theorem runsToEnd_act (n : Nat) (hs : Inv s) (hp : s.phase = .act) (hq : contents s = []) :
    ∃ ra : Bool, RunsToEnd k (n + 3) (opsFromActivity k ra) s := by
  have hop : taskOp k s.phase = some .activity := by rw [hp]; rfl
  obtain ⟨u, hu, hinv⟩ := taskOp_completes hs hop
  have hqu : contents u = contents s := exec_cooperative_contents rfl (by simp) hu
  rcases execActivity_phase hu with hpu | hpu
  · exact ⟨false, .cons hop hu (runsToEnd_dkPoll (n + 1) hinv hpu (hqu.trans hq))⟩
  · exact ⟨true, .cons hop hu (runsToEnd_raWait n hinv hpu (hqu.trans hq))⟩

theorem drainStep_completes (hs : Inv s) (hp : s.phase = .drain) :
    ∃ u, exec .drainStep s = .next u ∧ Inv u ∧ contents u = (contents s).tail ∧
      u.phase = if contents s = [] then .act else .drain := by
  obtain ⟨u, hu, hinv⟩ := taskOp_completes (k := 0#15) hs (i := .drainStep) (by rw [hp]; rfl)
  exact ⟨u, hu, hinv, execDrainStep_contents hs hu, execDrainStep_phase hs hu⟩

/-- One DRAIN_STEP per queued entry and one more, by induction on their number. -/
theorem runsToEnd_drain (n m : Nat) (hs : Inv s) (hp : s.phase = .drain) (hq : (contents s).length = m) :
    ∃ ra : Bool, RunsToEnd k (n + 4 + m) (opsFromDrain k ra m) s := by
  induction m generalizing s with
  | zero =>
    obtain ⟨u, hu, hinv, hqu, hpu⟩ := drainStep_completes hs hp
    have hempty := List.length_eq_zero_iff.mp hq
    rw [hempty] at hqu hpu
    obtain ⟨ra, hrest⟩ := runsToEnd_act (k := k) n hinv hpu hqu
    exact ⟨ra, .cons (by rw [hp]; rfl) hu hrest⟩
  | succ m ih =>
    obtain ⟨u, hu, hinv, hqu, hpu⟩ := drainStep_completes hs hp
    rw [if_neg (List.ne_nil_of_length_eq_add_one hq)] at hpu
    obtain ⟨ra, hrest⟩ := ih hinv hpu (by simp [hqu, hq])
    exact ⟨ra, .cons (by rw [hp]; rfl) hu hrest⟩

theorem runsToEnd_bellWait (n m : Nat) (hs : Inv s) (hp : s.phase = .bellWait) (hq : (contents s).length = m) :
    ∃ ra : Bool, RunsToEnd k (n + 4 + m + 1) (.bellEnd :: opsFromDrain k ra m) s := by
  have hop : taskOp k s.phase = some .bellEnd := by rw [hp]; rfl
  obtain ⟨u, hu, hinv⟩ := taskOp_completes hs hop
  have hqu : contents u = contents s := exec_cooperative_contents rfl (by simp) hu
  obtain ⟨ra, hrest⟩ := runsToEnd_drain (k := k) n m hinv (execBellEnd_phase hu) (by rw [hqu, hq])
  exact ⟨ra, .cons hop hu hrest⟩

/-! ### The whole invocation -/

theorem execRxPollOf_phase {rx : Option Byte} (h : exec (rxPollOf rx) s = .next u) :
    u.phase = if rx = some 0x07#8 ∧ s.cfg.bellMode ≠ .none then .bellWait else .drain := by
  cases rx with
  | none => simpa using execRxPoll_phase h
  | some b => simpa [Config.bel] using execRxPoll_phase h

/-- An invocation from IDLE: its RX_POLL, then what runs to the end. -/
theorem task_of_runsToEnd {rx : Option Byte} {is : List Instr} (hexec : exec (rxPollOf rx) s = .next u)
    (hrest : RunsToEnd k (queueCount u + 5) is u) :
    task rx k s = rxPollOf rx :: is ∧ ∃ t, execAll (rxPollOf rx :: is) s = .next t ∧ t.phase = .idle ∧ contents t = [] := by
  obtain ⟨hops, t, hrun, hend⟩ := hrest
  exact ⟨by simp [task, hexec, hops], t, by simp [execAll, hexec, hrun], hend⟩

end

/-- Settles O34: RX_POLL decides between BELL_WAIT and DRAIN, and from either phase the rest runs to the end. -/
theorem invocationHasItsShapeAndEnds : Obligations.InvocationHasItsShapeAndEnds := by
  intro s rx k hs hp
  have hrx : (rxPollOf rx).space = .eventWord ∧ (rxPollOf rx).agent = .cooperative ∧ rxPollOf rx ≠ .drainStep ∧
      admissionOf (rxPollOf rx) = .only .idle := by cases rx <;> simp [rxPollOf, Instr.space, Instr.agent, admissionOf]
  obtain ⟨hspace, hagent, hne, hadmit⟩ := hrx
  obtain ⟨u, hu⟩ := exec_completes hs hspace (by simp [hadmit, phaseAdmits, hp])
  have hinv := exec_keeps_inv hs hu
  have hqu : contents u = contents s := exec_cooperative_contents hagent hne hu
  have hlen : (contents u).length = (contents s).length := by rw [hqu]
  have hcount : queueCount u = (contents s).length := by rw [← contents_length, hqu]
  have hpu := execRxPollOf_phase hu
  by_cases hbell : rx = some 0x07#8 ∧ s.cfg.bellMode ≠ .none
  · rw [if_pos hbell] at hpu
    obtain ⟨ra, hrest⟩ := runsToEnd_bellWait (k := k) 0 _ hinv hpu hlen
    obtain ⟨htask, hend⟩ := task_of_runsToEnd hu (by rw [hcount]; convert hrest using 1; omega)
    exact ⟨⟨true, ra, by simp [htask, opsFromDrain, opsFromActivity], by simpa using hbell⟩, by rwa [htask]⟩
  · rw [if_neg hbell] at hpu
    obtain ⟨ra, hrest⟩ := runsToEnd_drain (k := k) 1 _ hinv hpu hlen
    obtain ⟨htask, hend⟩ := task_of_runsToEnd hu (by rw [hcount]; convert hrest using 1; omega)
    exact ⟨⟨false, ra, by simp [htask, opsFromDrain, opsFromActivity], by simpa using hbell⟩, by rwa [htask]⟩

end Sys2Proof.Machine

/-! PROOFS. The ready/ack events of an uninterrupted invocation in immediate key-ack (O52; 44_handshake.md R233). -/

namespace Sys2Proof.Machine

/-- A ready/ack event. -/
def OutEvent.isRa : OutEvent → Bool
  | .ra _ => true
  | .tx _ | .ctrl _ | .bell _ | .ind _ => false

/-- From `s` to `t` the output trace grew, and its new ready/ack events are `ra`. -/
def EmitsRa (ra : List OutEvent) (s t : State) : Prop := ∃ new, t.outv = s.outv ++ new ∧ new.filter OutEvent.isRa = ra

section

variable {s t u : State}

theorem EmitsRa.trans {a b : List OutEvent} (hst : EmitsRa a s t) (htu : EmitsRa b t u) : EmitsRa (a ++ b) s u := by
  obtain ⟨new, hnew, rfl⟩ := hst
  obtain ⟨more, hmore, rfl⟩ := htu
  exact ⟨new ++ more, by rw [hmore, hnew, List.append_assoc], List.filter_append _ _⟩

theorem EmitsRa.of_outv_eq (h : t.outv = s.outv) : EmitsRa [] s t := ⟨[], by simp [h], rfl⟩

/-! ### Which events are no ready/ack event -/

@[simp] theorem filter_isRa_map_tx (bs : List Byte) : (bs.map OutEvent.tx).filter OutEvent.isRa = [] := by
  simp [OutEvent.isRa]

@[simp] theorem filter_isRa_actionEvents (c : Config) (a : Action) (pressed : Bool) :
    (actionEvents c a pressed).filter OutEvent.isRa = [] := by
  cases a with
  | noop | brk => rfl
  | answerback idx => cases pressed <;> simp [actionEvents]
  | escapePrefix p sel lit => cases pressed <;> cases p <;> rfl

@[simp] theorem filter_isRa_dispatchEvents (c : Config) (prev new : KeyMask) :
    (dispatchEvents c prev new).filter OutEvent.isRa = [] := by
  simp [dispatchEvents, List.filter_flatMap]

@[simp] theorem filter_isRa_charEvents (c : Config) (y : Byte) (dk : Option KeyMask) :
    (charEvents c y dk).filter OutEvent.isRa = [] := by
  unfold charEvents
  split
  · rfl
  · split
    · split <;> rfl
    · rfl

/-! ### Each operation of an invocation -/

theorem execRxPoll_emitsRa {v : Bool} {b : Byte} (h : execRxPoll v b s = .next t) : EmitsRa [] s t := by
  obtain ⟨-, -, ⟨-, -, l, -, rfl⟩ | ⟨-, bs, -, rfl⟩⟩ := execRxPoll_next h
  · exact ⟨[.bell l], rfl, rfl⟩
  · exact ⟨_, rfl, filter_isRa_map_tx bs⟩

theorem execBellEnd_emitsRa (h : execBellEnd s = .next t) : EmitsRa [] s t := by
  obtain ⟨-, -, rfl⟩ := execBellEnd_next h
  obtain ⟨l, n, hdrive⟩ := driveBellTo_eq (bellInactive s.cfg) s
  rw [hdrive]
  exact ⟨[.bell l], rfl, rfl⟩

theorem execDrainStep_emitsRa (h : execDrainStep s = .next t) : EmitsRa [] s t := by
  obtain ⟨-, -, ⟨-, rfl⟩ | ⟨-, -, e, -, rfl⟩⟩ := execDrainStep_next h
  · exact .of_outv_eq rfl
  · rw [drainEntry_eq]
    refine ⟨_, List.append_assoc _ _ _, ?_⟩
    cases e.directKeys <;> cases parityOK s.cfg e.charCode <;> simp

theorem execDkPoll_emitsRa {k : KeyMask} (h : execDkPoll k s = .next t) : EmitsRa [] s t ∧ t.sent = s.sent := by
  obtain ⟨-, -, rfl | ⟨-, -, rfl⟩ | ⟨-, -, -, rfl⟩ | ⟨-, -, -, -, rfl⟩⟩ := execDkPoll_next h
  · exact ⟨.of_outv_eq rfl, rfl⟩
  · rw [dispatch_eq]
    exact ⟨⟨_, rfl, filter_isRa_dispatchEvents _ _ _⟩, rfl⟩
  · exact ⟨.of_outv_eq rfl, rfl⟩
  · rw [dispatch_eq]
    exact ⟨⟨_, rfl, filter_isRa_dispatchEvents _ _ _⟩, rfl⟩

theorem execRaEnd_emitsRa (h : execRaEnd s = .next t) : EmitsRa [.ra (raInactive s.cfg)] s t ∧ t.sent = s.sent := by
  obtain ⟨-, -, rfl⟩ := execRaEnd_next h
  exact ⟨⟨_, rfl, rfl⟩, rfl⟩

/-- ACTIVITY in immediate key-ack: the pulse starts when the cycle sent (44_handshake.md R233). -/
theorem execActivity_immediate (hmode : s.cfg.raMode = .keyAck) (hdelay : s.cfg.raDelay = 0)
    (h : execActivity s = .next t) :
    t.sent = s.sent ∧ t.cfg = s.cfg ∧
      ((s.sent = true ∧ t.phase = .raWait ∧ EmitsRa [.ra (raActive s.cfg)] s t) ∨
        (s.sent = false ∧ t.phase = .dkPoll ∧ EmitsRa [] s t)) := by
  obtain ⟨-, -, heffect⟩ := admitted_next h
  simp only [hmode, ne_eq, not_true_eq_false, if_false, hdelay, if_true] at heffect
  split at heffect <;> rename_i hsent <;> cases heffect
  · exact ⟨rfl, rfl, .inl ⟨hsent, rfl, _, rfl, rfl⟩⟩
  · exact ⟨rfl, rfl, .inr ⟨by simpa using hsent, rfl, .of_outv_eq rfl⟩⟩

/-! ### Lists of operations -/

theorem execAll_append_next {is js : List Instr} (h : execAll (is ++ js) s = .next t) :
    ∃ u, execAll is s = .next u ∧ execAll js u = .next t := by
  induction is generalizing s with
  | nil => exact ⟨s, rfl, h⟩
  | cons i rest ih =>
    obtain ⟨v, hv, hrest⟩ := execAll_cons_next h
    obtain ⟨u, hu, hjs⟩ := ih hrest
    exact ⟨u, by simp [execAll, hv, hu], hjs⟩

/-- The operations of an invocation before its ACTIVITY. -/
def Instr.beforeActivity : Instr → Prop
  | .rxPoll _ _ | .bellEnd | .drainStep => True
  | _ => False

theorem execAll_emitsRa_nil {is : List Instr} (hq : ∀ i ∈ is, Instr.beforeActivity i) (h : execAll is s = .next t) :
    EmitsRa [] s t := by
  induction is generalizing s with
  | nil =>
    cases h
    exact .of_outv_eq rfl
  | cons i rest ih =>
    obtain ⟨u, hu, hrest⟩ := execAll_cons_next h
    have hi : EmitsRa [] s u := by
      have hbefore := hq i List.mem_cons_self
      cases i with
      | rxPoll v b => exact execRxPoll_emitsRa hu
      | bellEnd => exact execBellEnd_emitsRa hu
      | drainStep => exact execDrainStep_emitsRa hu
      | _ => cases hbefore
    exact hi.trans (ih (fun j hj => hq j (List.mem_cons_of_mem i hj)) hrest)

/-- From ACTIVITY on, in immediate key-ack: RA_END stands there exactly after a pulse began, and `sent` is kept. -/
theorem execAll_activity_emitsRa {ra : Bool} {k : KeyMask} (hmode : s.cfg.raMode = .keyAck) (hdelay : s.cfg.raDelay = 0)
    (h : execAll (opsFromActivity k ra) s = .next t) :
    EmitsRa (if t.sent then [.ra (raActive s.cfg), .ra (raInactive s.cfg)] else []) s t := by
  obtain ⟨u, hu, hrest⟩ := execAll_cons_next h
  obtain ⟨hsent, hcfg, hcase⟩ := execActivity_immediate hmode hdelay hu
  cases ra with
  | true =>
    obtain ⟨v, hv, hlast⟩ := execAll_cons_next hrest
    obtain ⟨w, hw, hnil⟩ := execAll_cons_next hlast
    cases hnil
    obtain ⟨-, hpu, -⟩ := execRaEnd_next hv
    obtain ⟨hve, hvs⟩ := execRaEnd_emitsRa hv
    obtain ⟨hte, hts⟩ := execDkPoll_emitsRa hw
    obtain ⟨hs, -, he⟩ | ⟨-, hp, -⟩ := hcase
    · rw [hcfg] at hve
      rw [hts, hvs, hsent, hs]
      exact (he.trans hve).trans hte
    · rw [hp] at hpu
      cases hpu
  | false =>
    obtain ⟨w, hw, hnil⟩ := execAll_cons_next hrest
    cases hnil
    obtain ⟨-, hpu, -⟩ := execDkPoll_next hw
    obtain ⟨hte, hts⟩ := execDkPoll_emitsRa hw
    obtain ⟨-, hp, -⟩ | ⟨hs, -, he⟩ := hcase
    · rw [hp] at hpu
      cases hpu
    · rw [hts, hsent, hs]
      exact he.trans hte

end

/-- Settles O52: by the shape of the invocation (O34) only ACTIVITY and RA_END can emit ready/ack events. -/
theorem immediateAckPulsesOncePerSendingInvocation : Obligations.ImmediateAckPulsesOncePerSendingInvocation := by
  intro s t rx k hs hp hmode hdelay hrun
  obtain ⟨⟨bell, ra, htask, -⟩, -⟩ := invocationHasItsShapeAndEnds s rx k hs hp
  rw [htask] at hrun
  simp only [List.append_assoc (_ ++ List.replicate _ _), List.singleton_append] at hrun
  obtain ⟨u, hfront, hrest⟩ := execAll_append_next hrun
  have hcfg : u.cfg = s.cfg := (execAll_extends hfront).cfg
  have hquiet : EmitsRa [] s u := by
    refine execAll_emitsRa_nil (fun i hi => ?_) hfront
    have hmem : i = rxPollOf rx ∨ i = .bellEnd ∨ i = .drainStep := by cases bell <;> simp at hi <;> tauto
    obtain rfl | rfl | rfl := hmem
    · cases rx <;> trivial
    · trivial
    · trivial
  have hpulse := execAll_activity_emitsRa (by rw [hcfg, hmode]) (by rw [hcfg, hdelay]) hrest
  rw [hcfg] at hpulse
  exact hquiet.trans hpulse

end Sys2Proof.Machine

/-! PROOFS. STROBE, TICK and the strobe line (O19, O21, O25, O26; 40_capture_queue.md R110 to R120). -/

namespace Sys2Proof.Machine

section

variable {s t : State}

/-! ### What STROBE and TICK answer -/

/-- Under a configuration that fails a check nothing is admitted (70_reset_and_hazards.md R293). -/
theorem admitted_of_failedCheck {a : Admission} {effect : State → Result} {check : ConfigCheck}
    (hc : failedCheck s.cfg = some check) : admitted a s effect = .refused (.unsupportedConfiguration check) := by
  simp [admitted, hc]

/-- The sampled entry on the record's own fields (40_capture_queue.md R110, R112; 10_state.md R51). -/
theorem captureEntry_eq (cfg : Config) (c : Byte) (k : KeyMask) :
    captureEntry cfg c k =
      { charCode := c,
        directKeys := if cfg.dkMode = .strobe then
          some ((k ^^^ cfg.dkInvertMask) &&& (BitVec.ofNat 15 (2 ^ cfg.dkCount - 1) &&& ~~~cfg.dkReservedMask))
          else none } := by
  unfold captureEntry
  cases cfg.dkMode <;> rfl

/-- An admitted STROBE counts a drop on a full queue, stores its entry on one with room, and faults where `in` names no slot
(40_capture_queue.md R110, R116; 00_scope.md R11). -/
theorem execStrobe_eq (c : Byte) (k : KeyMask) (s : State) :
    execStrobe c k s = admitted .always s fun s =>
      if isFull s then .next { s with ovf := s.ovf + 1#32 }
      else if s.inIdx < slotCount s then
        .next { s with slot := Memory.store s.slot s.inIdx (captureEntry s.cfg c k)
                       inIdx := (s.inIdx + 1) % slotCount s }
      else .fault .slotOutOfRange := by
  unfold execStrobe
  congr 1
  funext u
  unfold add memWrite
  split_ifs <;> rfl

theorem execTick_eq (hc : failedCheck s.cfg = none) :
    execTick s = .next { s with time := (s.time + 1) % timeModulus s.cfg } :=
  admitted_eq _ hc rfl

/-- A wrap of the Time Base does not disturb an elapsed time below 2^TW (00_scope.md R11). -/
theorem elapsed_of_advance {c : Config} {now d : Nat} (hnow : now < timeModulus c) (hd : d < timeModulus c) :
    elapsed c ((now + d) % timeModulus c) now = d := by
  have hsum : now + d + (timeModulus c - now) = d + timeModulus c := by omega
  rw [elapsed, Nat.mod_eq_of_lt hnow, Nat.mod_add_mod, hsum, Nat.add_mod_right, Nat.mod_eq_of_lt hd]

/-! ### STROBE beside the Time Base -/

/-- STROBE reads no time (40_capture_queue.md R110). -/
theorem execStrobe_setTime (hc : failedCheck s.cfg = none) (c : Byte) (k : KeyMask) (now : Nat) :
    execStrobe c k { s with time := now } = mapNext (fun t => { t with time := now }) (execStrobe c k s) := by
  rw [execStrobe_eq, execStrobe_eq, admitted_eq (s := { s with time := now }) _ hc rfl, admitted_eq (s := s) _ hc rfl]
  simp only [apply_ite (mapNext _)]
  rfl

/-- STROBE writes neither the time nor the configuration (10_state.md R59). -/
theorem execStrobe_time_cfg {c : Byte} {k : KeyMask} (h : execStrobe c k s = .next t) :
    t.time = s.time ∧ t.cfg = s.cfg := by
  obtain ⟨-, ⟨-, rfl⟩ | ⟨-, -, rfl⟩⟩ := execStrobe_next h <;> exact ⟨rfl, rfl⟩

end

/-- Settles O19: with room the answer is the store (R116), and a store changes the reading of its own cell only. -/
theorem strobeStoresTheEntry : Obligations.StrobeStoresTheEntry := by
  intro s c k hc hi hroom
  have hslot : s.inIdx < slotCount s := hi
  have hnotFull : ¬isFull s = true := by simpa [isFull, slotCount] using hroom
  refine ⟨Memory.store s.slot s.inIdx (captureEntry s.cfg c k), ?_, ?_, ?_, store_wf _ _ _⟩
  · show execStrobe c k s = _
    rw [execStrobe_eq, admitted_eq _ hc rfl, if_neg hnotFull, if_pos hslot]
    rfl
  · rw [find_store_same, captureEntry_eq]
  · exact fun a ha => find_store_other _ _ _ _ ha

/-- Settles O21. -/
theorem tickAdvancesTheTimeBase : Obligations.TickAdvancesTheTimeBase :=
  ⟨fun _ hc => execTick_eq hc, fun _ _ _ hnow hd => elapsed_of_advance hnow hd⟩

/-- Settles O25: a failing configuration refuses both orders alike; else TICK always completes, and STROBE neither reads nor
writes the time. -/
theorem strobeAndTickCommute : Obligations.StrobeAndTickCommute := by
  intro s c k
  cases hc : failedCheck s.cfg with
  | some check =>
    have hstrobe : execStrobe c k s = .refused (.unsupportedConfiguration check) := admitted_of_failedCheck hc
    have htick : execTick s = .refused (.unsupportedConfiguration check) := admitted_of_failedCheck hc
    simp only [execAll, exec, hstrobe, htick]
  | none =>
    have hafter := execStrobe_setTime hc c k ((s.time + 1) % timeModulus s.cfg)
    simp only [execAll, exec, execTick_eq hc, hafter]
    cases hstrobe : execStrobe c k s with
    | next t =>
      obtain ⟨htime, hcfg⟩ := execStrobe_time_cfg hstrobe
      have htick : execTick t = .next { t with time := (s.time + 1) % timeModulus s.cfg } := by
        rw [execTick_eq (hcfg ▸ hc), htime, hcfg]
      simp only [htick, mapNext]
    | fault | refused => rfl

/-! ### The strobe line -/

/-- The configured direction (10_state.md R49): a transition whose new level is high exactly for `rising`. -/
theorem strobeFires_iff {c : Config} {before after : Bool} :
    strobeFires c before after = true ↔ before ≠ after ∧ (after = true ↔ c.strobeEdge = .rising) := by
  unfold strobeFires
  cases c.strobeEdge with
  | falling => cases before <;> simp
  | rising => cases before <;> simp

/-- Settles O26. -/
theorem oneStrobePerConfiguredEdge : Obligations.OneStrobePerConfiguredEdge := by
  intro c ch k before after
  simp only [strobeLine, strobeFires_iff]

end Sys2Proof.Machine

/-! PROOFS. No run depends on the overflow counter (O57, 40_capture_queue.md R114, 10_state.md R56). -/

namespace Sys2Proof.Machine

/-- A state with its overflow counter forgotten. -/
def State.forgetOvf (s : State) : State := { s with ovf := 0#32 }

/-- The answer of an effect, the counter apart, does not depend on the counter. -/
def IgnoresOvf (effect : State → Result) : Prop :=
  ∀ s, mapNext State.forgetOvf (effect s.forgetOvf) = mapNext State.forgetOvf (effect s)

section

variable (s : State)

/-! What the rules read is as before. -/

@[simp] theorem forgetOvf_cfg : s.forgetOvf.cfg = s.cfg := rfl
@[simp] theorem forgetOvf_phase : s.forgetOvf.phase = s.phase := rfl
@[simp] theorem forgetOvf_actPressed : s.forgetOvf.actPressed = s.actPressed := rfl
@[simp] theorem forgetOvf_slot : s.forgetOvf.slot = s.slot := rfl
@[simp] theorem forgetOvf_outIdx : s.forgetOvf.outIdx = s.outIdx := rfl
@[simp] theorem forgetOvf_slotCount : slotCount s.forgetOvf = slotCount s := rfl
@[simp] theorem forgetOvf_isEmpty : isEmpty s.forgetOvf = isEmpty s := rfl

/-! ### The shared operations -/

theorem driveBellTo_forgetOvf (level : Option PinLevel) :
    driveBellTo level s.forgetOvf = (driveBellTo level s).forgetOvf := by
  cases level <;> rfl

theorem dispatch_forgetOvf (new : KeyMask) : dispatch new s.forgetOvf = (dispatch new s).forgetOvf := by
  simp only [dispatch_eq]
  rfl

theorem drainEntry_forgetOvf (e : Entry) : drainEntry e s.forgetOvf = (drainEntry e s).forgetOvf := by
  simp only [drainEntry_eq]
  rfl

theorem debounce_forgetOvf (x : KeyMask) :
    debounce x s.forgetOvf = Prod.map id State.forgetOvf (debounce x s) := by
  unfold debounce
  simp only [apply_ite (Prod.map id State.forgetOvf)]
  rfl

end

theorem mapNext_forgetOvf_of_eq {t u : State} (h : t = u.forgetOvf) :
    mapNext State.forgetOvf (.next t) = mapNext State.forgetOvf (.next u) := by
  rw [h]
  rfl

theorem IgnoresOvf.admitted {a : Admission} {effect : State → Result} (h : IgnoresOvf effect) :
    IgnoresOvf fun s => Machine.admitted a s effect := by
  intro s
  dsimp only
  cases hc : failedCheck s.cfg with
  | some check => rw [admitted_of_failedCheck hc, admitted_of_failedCheck (s := s.forgetOvf) hc]
  | none =>
    cases hp : phaseAdmits a s.phase with
    | true => simpa only [admitted_eq (s := s.forgetOvf) effect hc hp, admitted_eq effect hc hp] using h s
    | false => simp [Machine.admitted, hc, hp]

/-! ### The instructions -/

/-- A STROBE adds to the counter and tests the queue alone. -/
theorem execStrobe_ignoresOvf (c : Byte) (k : KeyMask) : IgnoresOvf (execStrobe c k) := by
  rw [funext (execStrobe_eq c k)]
  refine .admitted fun s => ?_
  simp only [apply_ite (mapNext State.forgetOvf)]
  rfl

theorem execHostline_ignoresOvf (asserted : Bool) : IgnoresOvf (execHostline asserted) := by
  refine .admitted fun s => ?_
  rw [forgetOvf_cfg]
  cases s.cfg.raMode <;> rfl

/-- RX_POLL after its answer-back: the bell pulse or the queue. -/
theorem rxPoll_bell_ignoresOvf (v : Bool) (b : Byte) :
    IgnoresOvf fun s =>
      if v = true ∧ b = Config.bel ∧ s.cfg.bellMode ≠ .none then .next (goPhase .bellWait (bellOn s))
      else .next (goPhase .drain s) := by
  intro s
  dsimp only
  rw [forgetOvf_cfg]
  split
  · exact mapNext_forgetOvf_of_eq (congrArg (goPhase .bellWait) (driveBellTo_forgetOvf s (bellActive s.cfg)))
  · rfl

theorem execRxPoll_ignoresOvf (v : Bool) (b : Byte) : IgnoresOvf (execRxPoll v b) := by
  refine .admitted fun s => ?_
  by_cases henq : v = true ∧ b = Config.enq
  · simp only [if_pos henq]
    exact rxPoll_bell_ignoresOvf v b (txs s.cfg.ab0 { s with sent := false })
  · simp only [if_neg henq]
    exact rxPoll_bell_ignoresOvf v b { s with sent := false }

theorem execDrainStep_ignoresOvf : IgnoresOvf execDrainStep := by
  refine .admitted fun s => ?_
  rw [forgetOvf_isEmpty]
  cases he : isEmpty s with
  | true => rfl
  | false =>
    by_cases ho : s.outIdx < slotCount s
    · cases hf : Memory.find s.slot s.outIdx with
      | some e =>
        rw [remove_total he ho hf, remove_total (s := s.forgetOvf) he ho hf]
        exact mapNext_forgetOvf_of_eq (drainEntry_forgetOvf { s with outIdx := (s.outIdx + 1) % slotCount s } e)
      | none => simp [remove, memRead, he, ho, hf, raiseFault, orFault]
    · simp [remove, memRead, he, ho, raiseFault, orFault]

theorem execActivity_ignoresOvf : IgnoresOvf execActivity := by
  refine .admitted fun s => ?_
  simp only [apply_ite (mapNext State.forgetOvf)]
  rfl

theorem execDkPoll_ignoresOvf (k : KeyMask) : IgnoresOvf (execDkPoll k) := by
  refine .admitted fun s => ?_
  rw [forgetOvf_cfg, debounce_forgetOvf]
  cases s.cfg.dkMode with
  | off | strobe => rfl
  | poll =>
    obtain ⟨v, u⟩ := debounce (dkSample s.cfg k) s
    cases v with
    | none => rfl
    | some v => exact mapNext_forgetOvf_of_eq (congrArg (goPhase .idle) (dispatch_forgetOvf u v))

theorem execActAnswerback_ignoresOvf (idx : BitVec 2) : IgnoresOvf (execActAnswerback idx) := by
  refine .admitted fun s => ?_
  unfold actAnswerback
  rw [forgetOvf_actPressed]
  split_ifs <;> rfl

theorem execActEscapeprefix_ignoresOvf (p : Bool) (sel lit : Byte) : IgnoresOvf (execActEscapeprefix p sel lit) := by
  refine .admitted fun s => ?_
  unfold actEscape
  rw [forgetOvf_actPressed]
  cases p <;> split_ifs <;> rfl

/-- Every instruction ignores the counter: a drop adds to it, RESET clears it, and nothing else touches it. -/
theorem exec_ignoresOvf (i : Instr) : IgnoresOvf (exec i) := by
  cases i with
  | strobe c k => exact execStrobe_ignoresOvf c k
  | tick | raEnd | reset | actNoop | actBreak => exact .admitted fun _ => rfl
  | hostline asserted => exact execHostline_ignoresOvf asserted
  | rxPoll v b => exact execRxPoll_ignoresOvf v b
  | bellEnd =>
    exact .admitted fun s =>
      mapNext_forgetOvf_of_eq (congrArg (goPhase .drain) (driveBellTo_forgetOvf s (bellInactive s.cfg)))
  | drainStep => exact execDrainStep_ignoresOvf
  | activity => exact execActivity_ignoresOvf
  | dkPoll k => exact execDkPoll_ignoresOvf k
  | actAnswerback idx => exact execActAnswerback_ignoresOvf idx
  | actEscapeprefix p sel lit => exact execActEscapeprefix_ignoresOvf p sel lit

/-- After one step the two states still differ in the counter at most, so the rest of the list answers alike. -/
theorem execAll_ignoresOvf (is : List Instr) : IgnoresOvf (execAll is) := by
  induction is with
  | nil => exact fun _ => rfl
  | cons i rest ih =>
    intro s
    have hstep := exec_ignoresOvf i s
    unfold execAll
    generalize exec i s.forgetOvf = r, exec i s = q at hstep
    cases r with
    | next t =>
      cases q with
      | next u =>
        have htu : t.forgetOvf = u.forgetOvf := by injection hstep
        exact (ih t).symm.trans (htu ▸ ih u)
      | fault | refused => cases hstep
    | fault f =>
      cases q with
      | fault => cases hstep; rfl
      | next | refused => cases hstep
    | refused x =>
      cases q with
      | refused => cases hstep; rfl
      | next | fault => cases hstep

/-- Settles O57: two states that differ in the counter only are one when it is forgotten. -/
theorem overflowCounterIsUnobservable : Obligations.OverflowCounterIsUnobservable := by
  refine ⟨fun s t c k hfull h => ?_, fun is s x => ?_⟩
  · obtain ⟨-, ⟨-, rfl⟩ | ⟨hroom, -, -⟩⟩ := execStrobe_next h
    · rfl
    · rw [hfull] at hroom
      cases hroom
  · exact (execAll_ignoresOvf is { s with ovf := x }).symm.trans (execAll_ignoresOvf is s)

end Sys2Proof.Machine

/-! PROOFS. Parity and transform of a character (O29, O30; 41_drain_task.md R143, R144). -/

namespace Sys2Proof.Machine

/-- The XOR along a list is the parity of the number of trues. -/
theorem foldr_xor_eq_countP_odd {α : Type} (p : α → Bool) (is : List α) :
    is.foldr (fun i odd => p i ^^ odd) false = (is.countP p % 2 == 1) := by
  induction is with
  | nil => rfl
  | cons i rest ih =>
    rw [List.foldr_cons, ih, List.countP_cons]
    rcases Nat.mod_two_eq_zero_or_one (rest.countP p) with h | h <;> cases p i <;> simp [Nat.add_mod, h]

/-- `parity8` says whether the number of one bits is odd. -/
theorem parity8_eq (v : Byte) : parity8 v = (((List.range 8).countP fun i => v.getLsbD i) % 2 == 1) := by
  rw [← foldr_xor_eq_countP_odd]
  simp [parity8, List.range_succ]

/-- Settles O29: an even number is one that is not odd. -/
theorem parityCheckCountsOneBits : Obligations.ParityCheckCountsOneBits := by
  intro c v
  unfold parityOK
  rw [parity8_eq]
  cases c.parityMode with
  | none | odd => simp
  | even => rcases Nat.mod_two_eq_zero_or_one ((List.range 8).countP fun i => v.getLsbD i) with h | h <;> simp [h]

/-- Settles O30. -/
theorem transformInvertsThenMasks : Obligations.TransformInvertsThenMasks := by
  intro c v i hi
  unfold xform
  rw [BitVec.getLsbD_and]
  cases c.invert with
  | false => simp
  | true => simp [hi]

end Sys2Proof.Machine

/-! PROOFS. RX_POLL by the byte it reads, DRAIN_STEP by the queue and DK_POLL by the filter's answer (O27, O28, O31 to O33;
41_drain_task.md R140 to R163). -/

namespace Sys2Proof.Machine

section

variable {s u : State}

/-! ### RX_POLL -/

/-- ENQ sends the answer-back sequence 0 (41_drain_task.md R140). -/
theorem execRxPoll_enq (s : State) :
    execRxPoll true Config.enq s = admitted (.only .idle) s fun s =>
      .next { s with sent := false, outv := s.outv ++ s.cfg.ab0.map OutEvent.tx, phase := .drain } := by
  have hne : Config.enq ≠ Config.bel := by decide
  simp [execRxPoll, hne, goPhase, txs]

/-- BEL starts the bell pulse, in a mode that has a bell (44_handshake.md R244, R246). -/
theorem execRxPoll_bel (s : State) :
    execRxPoll true Config.bel s = admitted (.only .idle) s fun s =>
      if s.cfg.bellMode ≠ .none then .next (goPhase .bellWait (bellOn { s with sent := false }))
      else .next { s with sent := false, phase := .drain } := by
  have hne : Config.bel ≠ Config.enq := by decide
  simp [execRxPoll, hne, goPhase]

/-- No byte, or any other byte, only opens the drain (41_drain_task.md R140, R141). -/
theorem execRxPoll_other {v : Bool} {b : Byte} (henq : ¬(v = true ∧ b = Config.enq))
    (hbel : ¬(v = true ∧ b = Config.bel)) (s : State) :
    execRxPoll v b s = admitted (.only .idle) s fun s => .next { s with sent := false, phase := .drain } := by
  have hbell : ∀ c : Config, ¬(v = true ∧ b = Config.bel ∧ c.bellMode ≠ .none) :=
    fun c h => hbel ⟨h.1, h.2.1⟩
  simp only [execRxPoll, if_neg henq, if_neg (hbell _), goPhase]

/-! ### DRAIN_STEP -/

theorem execDrainStep_of_isEmpty (hc : failedCheck s.cfg = none) (hp : s.phase = .drain) (he : isEmpty s = true) :
    execDrainStep s = .next { s with phase := .act } := by
  rw [execDrainStep, admitted_eq _ hc (by simp [phaseAdmits, hp]), if_pos he]
  rfl

theorem execDrainStep_of_entry {e : Entry} (hc : failedCheck s.cfg = none) (hp : s.phase = .drain)
    (he : isEmpty s = false) (ho : s.outIdx < slotCount s) (hf : Memory.find s.slot s.outIdx = some e) :
    execDrainStep s = .next (drainEntry e { s with outIdx := (s.outIdx + 1) % slotCount s }) := by
  rw [execDrainStep, admitted_eq _ hc (by simp [phaseAdmits, hp]), if_neg (by simp [he]), remove_total he ho hf]
  rfl

/-! ### DK_POLL -/

variable {k : KeyMask}

/-- Outside poll mode the bus is not sampled here (41_drain_task.md R160). -/
theorem execDkPoll_of_ne_poll (hc : failedCheck s.cfg = none) (hp : s.phase = .dkPoll) (hm : s.cfg.dkMode ≠ .poll) :
    execDkPoll k s = .next { s with phase := .idle } := by
  rw [execDkPoll, admitted_eq _ hc (by simp [phaseAdmits, hp])]
  cases h : s.cfg.dkMode with
  | off | strobe => rfl
  | poll => exact absurd h hm

/-- A mask that the filter accepts is dispatched. -/
theorem execDkPoll_of_accepted {v : KeyMask} (hc : failedCheck s.cfg = none) (hp : s.phase = .dkPoll)
    (hm : s.cfg.dkMode = .poll) (hd : debounce (dkSample s.cfg k) s = (some v, u)) :
    execDkPoll k s = .next (goPhase .idle (dispatch v u)) := by
  rw [execDkPoll, admitted_eq _ hc (by simp [phaseAdmits, hp])]
  simp only [hm, hd]

/-- Where the filter accepts nothing, its own state is all that changes beside the phase. -/
theorem execDkPoll_of_waiting (hc : failedCheck s.cfg = none) (hp : s.phase = .dkPoll)
    (hm : s.cfg.dkMode = .poll) (hd : debounce (dkSample s.cfg k) s = (none, u)) :
    execDkPoll k s = .next (goPhase .idle u) := by
  rw [execDkPoll, admitted_eq _ hc (by simp [phaseAdmits, hp])]
  simp only [hm, hd]

end

/-- Settles O27: ENQ, BEL in each bell mode, and the rest. -/
theorem rxPollStartsTheInvocation : Obligations.RxPollStartsTheInvocation := by
  intro s v b hc hp
  have hadmit : phaseAdmits (.only .idle) s.phase = true := by simp [phaseAdmits, hp]
  show execRxPoll v b s = _
  by_cases henq : v = true ∧ b = Config.enq
  · obtain ⟨rfl, rfl⟩ := henq
    rw [execRxPoll_enq, admitted_eq _ hc hadmit, if_pos ⟨rfl, rfl⟩]
  · rw [if_neg (c := v = true ∧ b = 0x05#8) henq]
    by_cases hbel : v = true ∧ b = Config.bel
    · obtain ⟨rfl, rfl⟩ := hbel
      rw [execRxPoll_bel, admitted_eq _ hc hadmit]
      cases hm : s.cfg.bellMode <;> simp [Config.bel, hm, bellOn, bellActive, driveBellTo, driveBell, emit, goPhase]
    · rw [execRxPoll_other henq hbel, admitted_eq _ hc hadmit, if_neg fun h => hbel ⟨h.1, h.2.1⟩,
        if_neg fun h => hbel ⟨h.1, h.2.1⟩]

/-- Settles O28: neither reads ENQ or BEL. -/
theorem otherInboundBytesAreIgnored : Obligations.OtherInboundBytesAreIgnored := by
  intro s b henq hbel
  show execRxPoll true b s = execRxPoll false 0#8 s
  rw [execRxPoll_other (fun h => henq h.2) (fun h => hbel h.2), execRxPoll_other (by simp) (by simp)]

/-- Settles O31. -/
theorem drainStepOnEmptyQueueEndsTheDrain : Obligations.DrainStepOnEmptyQueueEndsTheDrain :=
  fun _ hc hp he => execDrainStep_of_isEmpty hc hp (beq_iff_eq.mpr he)

/-- Settles O32: the entry's work, field by field, on the state with `out` advanced. -/
theorem drainStepProcessesTheOldestEntry : Obligations.DrainStepProcessesTheOldestEntry := by
  intro s e hc hp hne ho hf
  show execDrainStep s = _
  rw [execDrainStep_of_entry hc hp (beq_eq_false_iff_ne.mpr hne) ho hf, drainEntry_eq]
  rfl

/-- Settles O33: outside poll mode nothing is sampled; in it, the four answers of the filter (42_debounce.md R180). -/
theorem dkPollEndsTheInvocation : Obligations.DkPollEndsTheInvocation := by
  intro s k hc hp
  show execDkPoll k s = _
  by_cases hm : s.cfg.dkMode = .poll
  · rw [if_neg (not_not_intro hm)]
    obtain ⟨hw, hd⟩ | ⟨hw, hx, hd⟩ | ⟨hw, hx, hb, hlate, hd⟩ | ⟨hw, hx, hearly, hd⟩ :=
      debounce_cases (dkSample s.cfg k) s
    · rw [execDkPoll_of_accepted hc hp hm hd, dispatch_eq, if_pos hw]
      rfl
    · rw [execDkPoll_of_waiting hc hp hm hd, if_neg hw.ne', if_pos hx]
      rfl
    · rw [execDkPoll_of_accepted hc hp hm hd, dispatch_eq, if_neg hw.ne', if_neg (not_not_intro hx), if_pos ⟨hb, hlate⟩, hx]
      rfl
    · have hnot : ¬(s.db.inProgress = true ∧ s.cfg.debounceWindow < elapsed s.cfg s.time s.db.candidateStart) := by
        rintro ⟨hb, hlate⟩
        exact hearly.elim (by simp [hb]) (Nat.not_le_of_lt hlate)
      rw [execDkPoll_of_waiting hc hp hm hd, if_neg hw.ne', if_neg (not_not_intro hx), if_neg hnot]
      rfl
  · rw [if_pos hm, execDkPoll_of_ne_poll hc hp hm]

end Sys2Proof.Machine

/-! PROOFS. Who sets `sent` (O35, 41_drain_task.md R163). -/

namespace Sys2Proof.Machine

section

variable {s t : State}

/-- Every other operation keeps `sent`, but RX_POLL and RESET, which clear it. -/
theorem exec_sent_of_ne_drainStep {i : Instr} (hdrain : i ≠ .drainStep) (h : exec i s = .next t) :
    t.sent = s.sent ∨ t.sent = false := by
  have hact : ∀ a : Action, exec a.toInstr s = .next t → t.sent = s.sent := by
    intro a ha
    obtain ⟨new, ht⟩ := execAction_writes ha
    rw [ht]
  cases i with
  | strobe | tick =>
    rw [exec_interrupt_writes rfl h]
    exact .inl rfl
  | hostline asserted => obtain ⟨-, -, ⟨-, rfl⟩ | ⟨-, rfl⟩⟩ := execHostline_next h <;> exact .inl rfl
  | rxPoll v b => obtain ⟨-, -, ⟨-, -, l, -, rfl⟩ | ⟨-, bs, -, rfl⟩⟩ := execRxPoll_next h <;> exact .inr rfl
  | bellEnd =>
    obtain ⟨-, -, rfl⟩ := execBellEnd_next h
    obtain ⟨l, n, hdrive⟩ := driveBellTo_eq (bellInactive s.cfg) s
    rw [hdrive]
    exact .inl rfl
  | drainStep => exact absurd rfl hdrain
  | activity =>
    obtain ⟨-, -, rfl | ⟨-, -, -, rfl⟩ | ⟨-, -, -, rfl⟩ | ⟨-, -, -, -, -, rfl⟩⟩ := execActivity_next h <;> exact .inl rfl
  | raEnd => exact .inl (execRaEnd_emitsRa h).2
  | dkPoll k => exact .inl (execDkPoll_emitsRa h).2
  | reset =>
    obtain ⟨-, rfl⟩ := execReset_next h
    exact .inr rfl
  | actNoop => exact .inl (hact .noop h)
  | actBreak => exact .inl (hact .brk h)
  | actAnswerback idx => exact .inl (hact (.answerback idx) h)
  | actEscapeprefix p sel lit => exact .inl (hact (.escapePrefix p sel lit) h)

/-- A DRAIN_STEP that sets `sent` found an entry that passes the parity check. -/
theorem execDrainStep_sets_sent (h : execDrainStep s = .next t) (hs : s.sent = false) (ht : t.sent = true) :
    ∃ e, Memory.find s.slot s.outIdx = some e ∧ parityOK s.cfg e.charCode = true := by
  obtain ⟨-, -, ⟨-, rfl⟩ | ⟨-, -, e, hf, rfl⟩⟩ := execDrainStep_next h
  · simp [hs] at ht
  · exact ⟨e, hf, by simpa [drainEntry_eq, hs] using ht⟩

end

/-- Settles O35. -/
theorem onlyPassedEntriesSetSent : Obligations.OnlyPassedEntriesSetSent := by
  intro s t i h hs ht
  by_cases hdrain : i = .drainStep
  · subst hdrain
    exact ⟨rfl, execDrainStep_sets_sent h hs ht⟩
  · rcases exec_sent_of_ne_drainStep hdrain h with hsent | hsent <;> simp [hsent, hs] at ht

end Sys2Proof.Machine

/-! PROOFS. When the debounce filter accepts its candidate, and its bypass (O36, O37; 42_debounce.md R183, R185). -/

namespace Sys2Proof.Machine

section

variable {s t : State} {x k : KeyMask}

/-! ### The strict window -/

/-- In Debouncing, a poll of the unchanged sample accepts once more than the window has passed (42_debounce.md R181). -/
theorem debounce_accepts_candidate_iff (hw : 0 < s.cfg.debounceWindow) (hb : s.db.inProgress = true) :
    (debounce s.db.candidate s).1 = some s.db.candidate ↔
      s.cfg.debounceWindow < elapsed s.cfg s.time s.db.candidateStart := by
  obtain ⟨hzero, -⟩ | ⟨-, hne, -⟩ | ⟨-, -, -, hlate, hd⟩ | ⟨-, -, hearly, hd⟩ := debounce_cases s.db.candidate s
  · exact absurd hzero hw.ne'
  · exact absurd rfl hne
  · simp [hd, hlate]
  · have hwithin : elapsed s.cfg s.time s.db.candidateStart ≤ s.cfg.debounceWindow :=
      hearly.resolve_left (by simp [hb])
    simpa [hd] using hwithin

/-! ### The bypass -/

theorem debounce_of_zero_window (hw : s.cfg.debounceWindow = 0) : debounce x s = (some x, s) :=
  if_pos hw

/-- A state with another filter state. -/
def State.withDb (d : DebounceState) (s : State) : State := { s with db := d }

/-- Admission reads the configuration and the phase, never the filter state. -/
theorem admitted_withDb {a : Admission} {d : DebounceState} {effect : State → Result}
    (h : effect (s.withDb d) = mapNext (State.withDb d) (effect s)) :
    admitted a (s.withDb d) effect = mapNext (State.withDb d) (admitted a s effect) := by
  have hcfg : (s.withDb d).cfg = s.cfg := rfl
  have hphase : (s.withDb d).phase = s.phase := rfl
  unfold admitted
  rw [hcfg, hphase, h]
  cases failedCheck s.cfg with
  | some check => rfl
  | none => cases phaseAdmits a s.phase <;> rfl

theorem dispatch_withDb (d : DebounceState) (new : KeyMask) :
    dispatch new (s.withDb d) = (dispatch new s).withDb d := by
  simp only [dispatch_eq]
  rfl

/-- Without a window DK_POLL does not read the filter state: in poll mode the sample goes to the dispatcher as it is. -/
theorem execDkPoll_withDb (hw : s.cfg.debounceWindow = 0) (d : DebounceState) :
    execDkPoll k (s.withDb d) = mapNext (State.withDb d) (execDkPoll k s) := by
  refine admitted_withDb ?_
  have hcfg : (s.withDb d).cfg = s.cfg := rfl
  rw [hcfg, debounce_of_zero_window hw, debounce_of_zero_window (s := s.withDb d) hw]
  cases s.cfg.dkMode with
  | off | strobe => rfl
  | poll => exact congrArg (fun u => Host.Outcome.next (goPhase .idle u)) (dispatch_withDb d (dkSample s.cfg k))

/-- Without a window DK_POLL does not write the filter state. -/
theorem execDkPoll_keeps_db (hw : s.cfg.debounceWindow = 0) (h : execDkPoll k s = .next t) : t.db = s.db := by
  obtain ⟨-, -, rfl | ⟨-, -, rfl⟩ | ⟨-, hpos, -⟩ | ⟨-, hpos, -⟩⟩ := execDkPoll_next h
  · rfl
  · rw [goPhase_db, dispatch_eq]
  · exact absurd hw hpos.ne'
  · exact absurd hw hpos.ne'

end

/-- Settles O36: the candidate's age is the elapsed time, which a wrap does not disturb. -/
theorem debounceAcceptsStrictlyAfterTheWindow : Obligations.DebounceAcceptsStrictlyAfterTheWindow := by
  intro s d hw hstart hd htime hb
  have hage : elapsed s.cfg s.time s.db.candidateStart = d := by
    rw [htime]
    exact elapsed_of_advance hstart hd
  refine ⟨hage, ?_⟩
  rw [debounce_accepts_candidate_iff hw hb, hage]
  exact Nat.lt_iff_add_one_le

/-- Settles O37. -/
theorem zeroWindowBypassesTheFilter : Obligations.ZeroWindowBypassesTheFilter := by
  intro s x k d hw
  refine ⟨debounce_of_zero_window hw, execDkPoll_withDb hw d, ?_⟩
  cases h : exec (.dkPoll k) s with
  | next t => exact execDkPoll_keeps_db hw h
  | fault | refused => trivial

end Sys2Proof.Machine

/-! PROOFS. The key actions alone (O41 to O45; 43_dispatch.md R203 to R213). -/

namespace Sys2Proof.Machine

section

variable {s : State}

/-- No action writes its own operand. -/
theorem runAction_actPressed (a : Action) (s : State) : (runAction a s).actPressed = s.actPressed := by
  cases a with
  | noop | brk => rfl
  | answerback idx =>
    show (actAnswerback idx s).actPressed = s.actPressed
    unfold actAnswerback
    split <;> rfl
  | escapePrefix p sel lit =>
    show (actEscape p sel lit s).actPressed = s.actPressed
    unfold actEscape
    cases p <;> split <;> rfl

/-- `Act` puts the operand where the action reads it; what it puts back is the same operand. -/
theorem act_setPressed (a : Action) (pressed : Bool) (s : State) :
    { act a pressed s with actPressed := pressed } = runAction a { s with actPressed := pressed } :=
  congrArg (fun p => { runAction a { s with actPressed := pressed } with actPressed := p })
    (runAction_actPressed a { s with actPressed := pressed }).symm

/-- An action by its events and its indicator, on the operand the state holds. -/
theorem runAction_eq (a : Action) (s : State) :
    runAction a s =
      { s with
        ind := actionInd a s.actPressed s.ind
        outv := s.outv ++ actionEvents s.cfg a s.actPressed } := by
  rw [← act_setPressed a s.actPressed s, act_eq]

/-! An action's instruction performs the action in every phase (43_dispatch.md R214), under a legal configuration. -/

theorem execActEscapeprefix_eq (hc : failedCheck s.cfg = none) (selPresent : Bool) (sel lit : Byte) :
    execActEscapeprefix selPresent sel lit s = .next (runAction (.escapePrefix selPresent sel lit) s) :=
  admitted_eq _ hc rfl

theorem execActAnswerback_eq (hc : failedCheck s.cfg = none) {idx : BitVec 2} (hidx : answerbackIndexOk idx = true) :
    execActAnswerback idx s = .next (runAction (.answerback idx) s) := by
  rw [execActAnswerback, admitted_eq _ hc rfl, if_pos hidx]
  rfl

/-- The reserved index 3 stops ACT_ANSWERBACK (30_encoding.md R103, log 14). -/
theorem execActAnswerback_reserved (hc : failedCheck s.cfg = none) :
    execActAnswerback 3#2 s = .refused (.unsupportedConfiguration .actionDescriptors) :=
  admitted_eq _ hc rfl

/-- Well-formedness keeps the reserved index out, the only operand an action's instruction stops on. -/
theorem exec_toInstr_eq (hc : failedCheck s.cfg = none) {a : Action} (ha : a.wf = true) :
    exec a.toInstr s = .next (runAction a s) := by
  cases a with
  | noop => exact admitted_eq (a := .always) (fun s => .next (actNoOp s)) hc rfl
  | brk => exact admitted_eq (a := .always) (fun s => .next (actBreak s)) hc rfl
  | answerback idx => exact execActAnswerback_eq hc ha
  | escapePrefix p sel lit => exact execActEscapeprefix_eq hc p sel lit

end

/-- Settles O41: both are the action run on the operand in its place. -/
theorem dispatchRunsTheActionInstruction : Obligations.DispatchRunsTheActionInstruction := by
  intro s a pressed hc ha
  rw [exec_toInstr_eq (s := { s with actPressed := pressed }) hc ha, act_setPressed]

/-- Settles O42. -/
theorem noOpActionDoesNothing : Obligations.NoOpActionDoesNothing :=
  fun _ hc => exec_toInstr_eq (a := .noop) hc rfl

/-- Settles O43. -/
theorem breakActionReportsTheEdge : Obligations.BreakActionReportsTheEdge := by
  intro s hc
  exact (exec_toInstr_eq (a := .brk) hc rfl).trans (congrArg _ (runAction_eq .brk s))

/-- Settles O44: the indices 0 to 2 name `AB[0]` to `AB[2]`, and the index 3 none. -/
theorem answerbackActionSendsItsSequence : Obligations.AnswerbackActionSendsItsSequence := by
  intro s hc
  have hsends (idx : BitVec 2) (hidx : answerbackIndexOk idx = true) :
      execActAnswerback idx s =
        .next { s with outv := s.outv ++ if s.actPressed then (answerback s.cfg idx).map OutEvent.tx else [] } :=
    (execActAnswerback_eq hc hidx).trans (congrArg _ (runAction_eq (.answerback idx) s))
  exact ⟨hsends 0#2 rfl, hsends 1#2 rfl, hsends 2#2 rfl, execActAnswerback_reserved hc⟩

/-- Settles O45: nothing on a release; on a press the form with its selector or the one without. -/
theorem escapePrefixActionSendsItsForm : Obligations.EscapePrefixActionSendsItsForm := by
  intro s selPresent sel lit hc
  have hevents : actionEvents s.cfg (.escapePrefix selPresent sel lit) s.actPressed =
      if s.actPressed = false then []
      else if selPresent then [.tx s.cfg.par.escByte, .tx sel, .tx lit]
      else [.tx s.cfg.par.escByte, .tx lit] := by
    cases hp : s.actPressed <;> rfl
  show execActEscapeprefix selPresent sel lit s = _
  rw [execActEscapeprefix_eq hc, runAction_eq, hevents]
  rfl

end Sys2Proof.Machine

/-! PROOFS. The dispatcher's keys: which run, and in what order (O38 to O40; 43_dispatch.md R200 to R204). -/

namespace Sys2Proof.Machine

section

variable {c : Config} {k prev new : KeyMask} {i : Nat}

/-! ### The changed keys -/

theorem changedKeys_pairwise_lt (prev new : KeyMask) : (changedKeys prev new).Pairwise (· < ·) :=
  List.pairwise_lt_range.filter _

theorem mem_changedKeys : i ∈ changedKeys prev new ↔ i < 15 ∧ prev.getLsbD i ≠ new.getLsbD i := by
  simp [changedKeys]

@[simp] theorem changedKeys_self (k : KeyMask) : changedKeys k k = [] :=
  List.eq_nil_iff_forall_not_mem.mpr fun _ h => (mem_changedKeys.mp h).2 rfl

/-- The dispatcher's loop runs one action per bit set in `diff`, each the one bound at the start: no action writes the
configuration. -/
theorem dispatch_loop_eq_foldl_act (diff new : KeyMask) (is : List Nat) (s : State) :
    is.foldl (dispatchKey diff new) s =
      (is.filter fun i => diff.getLsbD i).foldl (fun u i => act (actionOf s.cfg i) (new.getLsbD i) u) s := by
  induction is generalizing s with
  | nil => rfl
  | cons i rest ih =>
    by_cases hd : diff.getLsbD i = true
    · have hcfg : (act (actionOf s.cfg i) (new.getLsbD i) s).cfg = s.cfg := by rw [act_eq]
      rw [List.filter_cons_of_pos hd, List.foldl_cons, List.foldl_cons, dispatchKey, if_pos hd, ih, hcfg]
    · rw [List.filter_cons_of_neg hd, List.foldl_cons, dispatchKey, if_neg hd, ih]

/-! ### The keys that are not fitted or are reserved -/

theorem getLsbD_lowbits (n i : Nat) : (lowbits n).getLsbD i = (decide (i < 15) && decide (i < n)) := by
  simp [lowbits, BitVec.getLsbD_ofNat]

/-- 10_state.md R51: a key that is not fitted or is reserved is outside `dkMask`. -/
theorem getLsbD_dkMask_of_unused (hunused : c.dkCount ≤ i ∨ c.dkReservedMask.getLsbD i = true) :
    (dkMask c).getLsbD i = false := by
  rcases hunused with hcount | hreserved
  · simp [dkMask, getLsbD_lowbits, hcount]
  · simp [dkMask, hreserved]

/-- A mask within `dkMask` is 0 wherever `dkMask` is. -/
theorem getLsbD_of_keysInMask (hk : keysInMask c k = true) (hi : (dkMask c).getLsbD i = false) :
    k.getLsbD i = false := by
  have hout : k &&& ~~~dkMask c = 0#15 := beq_iff_eq.mp hk
  refine Bool.eq_false_of_not_eq_true fun hset => ?_
  have hbit : (k &&& ~~~dkMask c).getLsbD i = true := by
    rw [BitVec.getLsbD_and, BitVec.getLsbD_not, hset, hi, decide_eq_true (BitVec.lt_of_getLsbD hset)]
    rfl
  simp [hout] at hbit

theorem not_mem_changedKeys_of_keysInMask (hprev : keysInMask c prev = true) (hnew : keysInMask c new = true)
    (hi : (dkMask c).getLsbD i = false) : i ∉ changedKeys prev new := fun h =>
  (mem_changedKeys.mp h).2 ((getLsbD_of_keysInMask hprev hi).trans (getLsbD_of_keysInMask hnew hi).symm)

end

/-- Settles O39: the changed keys are the filtered range of the bit numbers, and the loop is the loop over them. -/
theorem changedKeysRunInIndexOrder : Obligations.ChangedKeysRunInIndexOrder := by
  intro s new
  refine ⟨changedKeys_pairwise_lt s.dkPrev new, fun i => mem_changedKeys, ?_, ?_, ?_⟩
  · rw [dispatch_eq]
  · rw [dispatch_eq]
  · rw [dispatch, dispatch_loop_eq_foldl_act, changedKeys]

/-- Settles O40: `dkPrev` and every mask that reaches the dispatcher lie within `dkMask`, by the invariant. -/
theorem unusedKeysNeverRun : Obligations.UnusedKeysNeverRun := by
  intro s i hs _ hunused
  have hi := getLsbD_dkMask_of_unused hunused
  have hnever {new : KeyMask} (hnew : keysInMask s.cfg new = true) : i ∉ changedKeys s.dkPrev new :=
    not_mem_changedKeys_of_keysInMask hs.prev_fits hnew hi
  refine ⟨getLsbD_of_keysInMask hs.prev_fits hi, fun k => ⟨?_, ?_⟩, ?_, fun a e k hf hk => ?_⟩
  · exact getLsbD_of_keysInMask (keysInMask_dkSample s.cfg k) hi
  · exact hnever (keysInMask_dkSample s.cfg k)
  · exact hnever hs.candidate_fits
  · exact hnever (keysInMask_of_entryFits (hs.entry_fits hf) hk)

/-- Settles O38: a dispatch without changed keys has no event and keeps the indicator. -/
theorem unchangedMaskDispatchesNothing : Obligations.UnchangedMaskDispatchesNothing := by
  intro s
  refine ⟨changedKeys_self s.dkPrev, ?_⟩
  rw [dispatch_eq]
  simp [dispatchInd, dispatchEvents]

end Sys2Proof.Machine

/-! PROOFS. The Handshake Controller and the bell's end (O46 to O49, O51; 44_handshake.md R231 to R245). -/

namespace Sys2Proof.Machine

section

variable {s t : State}

/-! ### The ready/ack levels (44_handshake.md R231) -/

theorem raActive_eq (c : Config) : raActive c = if c.raPolarity = .activeHigh then .H else .L := by
  cases hp : c.raPolarity <;> simp [raActive, hp]

theorem raInactive_eq (c : Config) : raInactive c = if c.raPolarity = .activeHigh then .L else .H := by
  cases hp : c.raPolarity <;> simp [raInactive, hp]

/-- The level that mirrors the host's line is high exactly when the line's state is the one the polarity calls high. -/
theorem raMirror_eq (c : Config) (asserted : Bool) :
    (if asserted then raActive c else raInactive c) =
      if asserted = decide (c.raPolarity = .activeHigh) then .H else .L := by
  rw [raActive_eq, raInactive_eq]
  by_cases hp : c.raPolarity = .activeHigh <;> cases asserted <;> simp [hp]

/-! ### ACTIVITY in each mode -/

theorem execActivity_of_ne_keyAck (hc : failedCheck s.cfg = none) (hp : s.phase = .act) (hm : s.cfg.raMode ≠ .keyAck) :
    execActivity s = .next { s with phase := .dkPoll } := by
  rw [execActivity, admitted_eq _ hc (by simp [phaseAdmits, hp]), if_pos hm]
  rfl

/-- Immediate key-ack (44_handshake.md R233). -/
theorem execActivity_of_no_delay (hc : failedCheck s.cfg = none) (hp : s.phase = .act) (hm : s.cfg.raMode = .keyAck)
    (hd : s.cfg.raDelay = 0) :
    execActivity s = .next (if s.sent then goPhase .raWait (raOn s) else { s with phase := .dkPoll }) := by
  rw [execActivity, admitted_eq _ hc (by simp [phaseAdmits, hp]), if_neg (not_not_intro hm), if_pos hd]
  split <;> rfl

/-- Delayed key-ack, a sending invocation (44_handshake.md R234, R236). -/
theorem execActivity_of_delay_of_sent (hc : failedCheck s.cfg = none) (hp : s.phase = .act)
    (hm : s.cfg.raMode = .keyAck) (hd : s.cfg.raDelay ≠ 0) (hs : s.sent = true) :
    execActivity s = .next { s with hs := { pending := true, lastSendTime := s.time }, phase := .dkPoll } := by
  rw [execActivity, admitted_eq _ hc (by simp [phaseAdmits, hp]), if_neg (not_not_intro hm), if_neg hd, if_pos hs]
  rfl

/-- Delayed key-ack, a silent invocation: the comparison with the delay is strict (44_handshake.md R234). -/
theorem execActivity_of_delay_of_not_sent (hc : failedCheck s.cfg = none) (hp : s.phase = .act)
    (hm : s.cfg.raMode = .keyAck) (hd : s.cfg.raDelay ≠ 0) (hs : ¬s.sent = true) :
    execActivity s = .next
      (if s.hs.pending = true ∧ s.cfg.raDelay < elapsed s.cfg s.time s.hs.lastSendTime then
        goPhase .raWait (raOn { s with hs := { s.hs with pending := false } })
      else { s with phase := .dkPoll }) := by
  rw [execActivity, admitted_eq _ hc (by simp [phaseAdmits, hp]), if_neg (not_not_intro hm), if_neg hd, if_neg hs]
  split <;> rfl

/-! ### The other operations -/

theorem execRaEnd_of_raWait (hc : failedCheck s.cfg = none) (hp : s.phase = .raWait) :
    execRaEnd s = .next
      { s with raPin := raInactive s.cfg, outv := s.outv ++ [.ra (raInactive s.cfg)], phase := .dkPoll } := by
  rw [execRaEnd, admitted_eq _ hc (by simp [phaseAdmits, hp])]
  rfl

theorem execHostline_of_hostFollow {asserted : Bool} (hc : failedCheck s.cfg = none) (hp : s.phase = .idle)
    (hm : s.cfg.raMode = .hostFollow) :
    execHostline asserted s = .next (driveRa (if asserted then raActive s.cfg else raInactive s.cfg) s) := by
  rw [execHostline, admitted_eq _ hc (by simp [phaseAdmits, hp])]
  simp only [hm]

theorem execHostline_of_ne_hostFollow {asserted : Bool} (hc : failedCheck s.cfg = none) (hp : s.phase = .idle)
    (hm : s.cfg.raMode ≠ .hostFollow) : execHostline asserted s = .next s := by
  rw [execHostline, admitted_eq _ hc (by simp [phaseAdmits, hp])]
  cases h : s.cfg.raMode with
  | hostFollow => exact absurd h hm
  | none | keyAck => rfl

theorem execBellEnd_of_bellWait (hc : failedCheck s.cfg = none) (hp : s.phase = .bellWait) :
    execBellEnd s = .next (goPhase .drain (driveBellTo (bellInactive s.cfg) s)) := by
  rw [execBellEnd, admitted_eq _ hc (by simp [phaseAdmits, hp])]

/-- In a mode with a bell, its inactive level is driven and no free value is taken. -/
theorem execBellEnd_of_inactive {l : PinLevel} (hc : failedCheck s.cfg = none) (hp : s.phase = .bellWait)
    (hl : bellInactive s.cfg = some l) :
    execBellEnd s = .next { s with bellPin := l, outv := s.outv ++ [.bell l], phase := .drain } := by
  rw [execBellEnd_of_bellWait hc hp, hl]
  rfl

/-! ### Who writes the handshake state -/

/-- Of all operations, only ACTIVITY and RESET write `hs` (44_handshake.md R236). -/
theorem exec_keeps_hs {i : Instr} (hactivity : i ≠ .activity) (hreset : i ≠ .reset) (h : exec i s = .next t) :
    t.hs = s.hs := by
  have hact : ∀ a : Action, exec a.toInstr s = .next t → t.hs = s.hs := by
    intro a ha
    obtain ⟨new, ht⟩ := execAction_writes ha
    rw [ht]
  cases i with
  | strobe | tick => rw [exec_interrupt_writes rfl h]
  | hostline asserted => obtain ⟨-, -, ⟨-, rfl⟩ | ⟨-, rfl⟩⟩ := execHostline_next h <;> rfl
  | rxPoll v b => obtain ⟨-, -, ⟨-, -, l, -, rfl⟩ | ⟨-, bs, -, rfl⟩⟩ := execRxPoll_next h <;> rfl
  | bellEnd =>
    obtain ⟨-, -, rfl⟩ := execBellEnd_next h
    obtain ⟨l, n, hdrive⟩ := driveBellTo_eq (bellInactive s.cfg) s
    rw [hdrive]
    rfl
  | drainStep =>
    obtain ⟨-, -, ⟨-, rfl⟩ | ⟨-, -, e, -, rfl⟩⟩ := execDrainStep_next h
    · rfl
    · rw [drainEntry_eq]
  | activity => exact absurd rfl hactivity
  | raEnd =>
    obtain ⟨-, -, rfl⟩ := execRaEnd_next h
    rfl
  | dkPoll k =>
    obtain ⟨-, -, rfl | ⟨-, -, rfl⟩ | ⟨-, -, -, rfl⟩ | ⟨-, -, -, -, rfl⟩⟩ := execDkPoll_next h <;>
      simp [dispatch_eq]
  | reset => exact absurd rfl hreset
  | actNoop => exact hact .noop h
  | actBreak => exact hact .brk h
  | actAnswerback idx => exact hact (.answerback idx) h
  | actEscapeprefix p sel lit => exact hact (.escapePrefix p sel lit) h

/-- The one branch of ACTIVITY that clears a pending pulse is the one that fires it. -/
theorem execActivity_fires_of_clears (h : execActivity s = .next t) (hpending : s.hs.pending = true)
    (hcleared : t.hs.pending = false) : t.phase = .raWait ∧ t.outv = s.outv ++ [.ra (raActive s.cfg)] := by
  obtain ⟨-, -, rfl | ⟨-, -, -, rfl⟩ | ⟨-, -, -, rfl⟩ | ⟨-, -, -, -, -, rfl⟩⟩ := execActivity_next h
  · exact absurd hpending (Bool.eq_false_iff.mp hcleared)
  · exact absurd hpending (Bool.eq_false_iff.mp hcleared)
  · cases hcleared
  · exact ⟨rfl, rfl⟩

end

/-- Settles O51: what neither is RESET nor ACTIVITY keeps `hs`, and the sending branch of ACTIVITY records its own time. -/
theorem pendingPulseIsNeverAbandoned : Obligations.PendingPulseIsNeverAbandoned := by
  refine ⟨fun s t i h hpending hcleared => ?_, fun s t hm hd hs h => ?_⟩
  · by_cases hreset : i = .reset
    · exact .inl hreset
    · by_cases hactivity : i = .activity
      · subst hactivity
        exact .inr ⟨rfl, execActivity_fires_of_clears h hpending hcleared⟩
      · rw [exec_keeps_hs hactivity hreset h, hpending] at hcleared
        cases hcleared
  · obtain ⟨hc, hp, -⟩ := execActivity_next h
    have hsend := execActivity_of_delay_of_sent hc hp hm hd.ne' hs
    cases hsend.symm.trans h
    exact ⟨rfl, rfl, rfl⟩

/-- Settles O46, mode by mode. -/
theorem activityByMode : Obligations.ActivityByMode := by
  intro s hc hp
  show execActivity s = _
  rw [← raActive_eq]
  by_cases hm : s.cfg.raMode = .keyAck
  · rw [if_neg (not_not_intro hm)]
    by_cases hd : s.cfg.raDelay = 0
    · rw [execActivity_of_no_delay hc hp hm hd, if_pos hd]
      rfl
    · rw [if_neg hd]
      by_cases hs : s.sent = true
      · rw [execActivity_of_delay_of_sent hc hp hm hd hs, if_pos hs]
      · rw [execActivity_of_delay_of_not_sent hc hp hm hd hs, if_neg hs]
        rfl
  · rw [execActivity_of_ne_keyAck hc hp hm, if_pos hm]

/-- Settles O47. -/
theorem raEndReleasesThePin : Obligations.RaEndReleasesThePin := by
  intro s hc hp
  rw [← raInactive_eq]
  exact execRaEnd_of_raWait hc hp

/-- Settles O48: in host-follow mode the driven level is the mirrored one (R231). -/
theorem hostlineMirrorsTheLine : Obligations.HostlineMirrorsTheLine := by
  intro s asserted hc hp
  show execHostline asserted s = _
  by_cases hm : s.cfg.raMode = .hostFollow
  · rw [execHostline_of_hostFollow hc hp hm, raMirror_eq, if_pos hm]
    rfl
  · rw [execHostline_of_ne_hostFollow hc hp hm, if_neg hm]

/-- Settles O49: the inactive level of the two pulse modes, and in mode none the next free value. -/
theorem bellEndReleasesThePin : Obligations.BellEndReleasesThePin := by
  intro s hc hp
  refine ⟨fun hm => ?_, fun hm => ?_, fun hm => ?_⟩
  · exact execBellEnd_of_inactive hc hp (by simp [bellInactive, hm])
  · exact execBellEnd_of_inactive hc hp (by simp [bellInactive, hm])
  · have hnone : bellInactive s.cfg = none := by simp [bellInactive, hm]
    refine ⟨Config.undefinedBellLevel s.freeCount, ?_⟩
    show execBellEnd s = _
    rw [execBellEnd_of_bellWait hc hp, hnone]
    rfl

end Sys2Proof.Machine

/-! PROOFS. A STROBE that overflows the queue (O20; 60_exceptions.md R262). -/

namespace Sys2Proof.Machine

/-- `isFull()` on the record's own `N` (40_capture_queue.md R115). -/
theorem isFull_iff {s : State} : isFull s = true ↔ (s.inIdx + 1) % s.cfg.par.n = s.outIdx :=
  beq_iff_eq

/-- Settles O20: STROBE is admitted in every phase, and `execStrobe_eq` has one branch for a full queue. -/
theorem strobeOnFullQueueCountsOnly : Obligations.StrobeOnFullQueueCountsOnly := by
  intro s c k hc hfull
  show execStrobe c k s = _
  rw [execStrobe_eq, admitted_eq _ hc rfl, if_pos (isFull_iff.mpr hfull)]

end Sys2Proof.Machine

/-! PROOFS. Which packed words boot, and what runs under a record that fails a check (O12; 70_reset_and_hazards.md R293,
30_encoding.md R95). -/

namespace Sys2Proof

/-! ### Shifts and masks as fields -/

theorem field_shiftRight (w : Word) (lo len : Nat) : field (w >>> lo) 0 len = field w lo len := by
  ext i hi
  simp

theorem place_inj {len : Nat} {u v : BitVec len} (lo : Nat) (h : lo + len ≤ 32) : place u lo = place v lo ↔ u = v :=
  ⟨fun huv => by rw [← field_place_same u lo h, huv, field_place_same v lo h], congrArg (place · lo)⟩

/-- A word shifted and masked is the field that the rules of 30_encoding.md name by its bits. -/
theorem shiftRight_and_ones (w : Word) (lo len : Nat) :
    w >>> lo &&& place (BitVec.allOnes len) 0 = place (field w lo len) 0 := by
  rw [and_place_ones, field_shiftRight]

theorem shiftRight_and_eq_iff {w mask value : Word} {len : Nat} {v : BitVec len} (lo : Nat) (hlen : len ≤ 32)
    (hmask : mask = place (BitVec.allOnes len) 0) (hvalue : value = place v 0) :
    w >>> lo &&& mask = value ↔ field w lo len = v := by
  rw [hmask, hvalue, shiftRight_and_ones, place_inj 0 (by omega)]

/-- The bits from `lo` up to the top of the word. -/
theorem shiftRight_eq_zero_iff {w : Word} (lo len : Nat) (h : lo + len = 32) : w >>> lo = 0#32 ↔ field w lo len = 0#len := by
  rw [← field_shiftRight]
  constructor
  · intro hw
    rw [hw, field_zero]
  · intro hw
    apply BitVec.eq_of_getLsbD_eq
    intro i hi
    by_cases hil : i < len
    · simpa [hil] using congrArg (·.getLsbD i) hw
    · simp [show 32 ≤ lo + i by omega]

theorem getLsbD_field (w : Word) (lo len i : Nat) : (field w lo len).getLsbD i = (decide (i < len) && w.getLsbD (lo + i)) := by
  simp [field]

theorem toNat_place_zero {len : Nat} {v : BitVec len} (h : len ≤ 32) : (place v 0).toNat = v.toNat := by
  rw [place, BitVec.shiftLeft_zero, BitVec.toNat_setWidth_of_le h]

end Sys2Proof

namespace Sys2Proof.Machine

section

variable {w : ConfigWords} {c : Config} {s : State}

/-! ### The checks on a record -/

theorem descriptorOk_iff {d : Word} : descriptorOk d = true ↔ ∃ a, decodeAction d = .ok a := by
  refine ⟨fun h => ?_, fun ⟨_, ha⟩ => descriptorOk_of_decodeAction ha⟩
  unfold descriptorOk at h
  split at h
  · exact ⟨_, ‹_›⟩
  · cases h

/-- At most one bit is set: any two set bits are the same one. -/
theorem popcount_le_one_iff {k : KeyMask} :
    popcount k ≤ 1 ↔ ∀ i j, i < 15 → j < 15 → k.getLsbD i = true → k.getLsbD j = true → i = j := by
  have hcard : popcount k = ((Finset.range 15).filter fun i => k.getLsbD i = true).card := by
    simp only [popcount, List.countP_eq_length_filter, Finset.card, Finset.filter_val, Finset.range_val, Multiset.range,
      Multiset.filter_coe, Multiset.coe_card, Bool.decide_eq_true]
  rw [hcard, Finset.card_le_one_iff]
  simp only [Finset.mem_filter, Finset.mem_range, and_imp]
  exact ⟨fun h i j hi hj hki hkj => h hi hki hj hkj, fun h i j hi hki hj hkj => h i j hi hj hki hkj⟩

theorem and_not_lowbits_eq_zero_iff {k : KeyMask} {n : Nat} :
    k &&& ~~~lowbits n = 0#15 ↔ ∀ i, i < 15 → k.getLsbD i = true → i < n := by
  rw [BitVec.eq_of_getLsbD_eq_iff]
  refine forall_congr' fun i => forall_congr' fun hi => ?_
  rw [BitVec.getLsbD_and, BitVec.getLsbD_not, getLsbD_lowbits]
  simp [hi]

/-- Check 4 of R293 bit by bit. -/
theorem dkReservedMaskOk_iff :
    dkReservedMaskOk c = true ↔
      (∀ i j, i < 15 → j < 15 → c.dkReservedMask.getLsbD i = true → c.dkReservedMask.getLsbD j = true → i = j) ∧
      (∀ i, i < 15 → c.dkReservedMask.getLsbD i = true → i < c.dkCount) := by
  rw [dkReservedMaskOk, Bool.and_eq_true, decide_eq_true_iff, popcount_le_one_iff, beq_iff_eq, and_not_lowbits_eq_zero_iff]

theorem dkModeOk_iff : dkModeOk c = true ↔ (c.dkMode = .off ↔ c.dkCount = 0) := by
  rw [dkModeOk, beq_iff_eq, Bool.eq_iff_iff, beq_iff_eq, beq_iff_eq]

theorem capacityOk_iff :
    capacityOk c = true ↔
      2 ≤ c.par.n ∧ c.ab0.length ≤ c.par.abMax ∧ c.ab1.length ≤ c.par.abMax ∧ c.ab2.length ≤ c.par.abMax := by
  simp [capacityOk, and_assoc]

/-! ### The record that packed words spell (30_encoding.md R95) -/

theorem parityModeOfCode_eq_none_iff {code : BitVec 2} : parityModeOfCode code = none ↔ code = 3#2 := by
  revert code
  decide

theorem dkModeOfCode_eq_none_iff {code : BitVec 2} : dkModeOfCode code = none ↔ code = 3#2 := by
  revert code
  decide

theorem bellModeOfCode_eq_none_iff {code : BitVec 2} : bellModeOfCode code = none ↔ code = 3#2 := by
  revert code
  decide

theorem raModeOfCode_eq_none_iff {code : BitVec 2} : raModeOfCode code = none ↔ code = 3#2 := by
  revert code
  decide

theorem dkModeOfCode_eq_off_iff {code : BitVec 2} : dkModeOfCode code = some .off ↔ code = 0#2 := by
  revert code
  decide

/-- The checks that only packed words can fail: 1, 5, 6 and 8 of R293, and code 3 of `dkMode` (log 9). -/
structure CodesLegal (w : ConfigWords) : Prop where
  parityMode : field w.cfg0 8 2 ≠ 3#2
  dkMode : field w.cfg0 15 2 ≠ 3#2
  bellMode : field w.cfg0 17 2 ≠ 3#2
  raMode : field w.cfg0 19 2 ≠ 3#2
  reserved : reservedBitsClear w = true

/-- What R95 says of the fields of the record that the other checks and the reset table read. -/
structure Spells (w : ConfigWords) (c : Config) : Prop where
  par : c.par = w.par
  dkCount : c.dkCount = (field w.cfg0 11 4).toNat
  dkMode : dkModeOfCode (field w.cfg0 15 2) = some c.dkMode
  dkReservedMask : c.dkReservedMask = field w.cfg1 15 15
  action : c.action = w.act.take 15
  ab0 : c.ab0 = w.ab0
  ab1 : c.ab1 = w.ab1
  ab2 : c.ab2 = w.ab2

/-- The checks on the record that packed words spell: 3, 4, 7 and 9 of R293. -/
structure RecordLegal (w : ConfigWords) : Prop where
  dkMode : field w.cfg0 15 2 = 0#2 ↔ field w.cfg0 11 4 = 0#4
  oneReserved : ∀ i j, i < 15 → j < 15 → w.cfg1.getLsbD (15 + i) = true → w.cfg1.getLsbD (15 + j) = true → i = j
  reservedFitted : ∀ i, i < 15 → w.cfg1.getLsbD (15 + i) = true → i < (field w.cfg0 11 4).toNat
  actions : ∀ d ∈ w.act.take 15, ∃ a, decodeAction d = .ok a
  capacity : 2 ≤ w.par.n ∧ w.ab0.length ≤ w.par.abMax ∧ w.ab1.length ≤ w.par.abMax ∧ w.ab2.length ≤ w.par.abMax

/-- Words are read as a record exactly when their codes are legal, and the record is the one they spell. -/
theorem recordOfWords_cases (w : ConfigWords) :
    (¬CodesLegal w ∧ ∃ check, recordOfWords w = .error check) ∨
      (CodesLegal w ∧ ∃ c, recordOfWords w = .ok c ∧ Spells w c) := by
  unfold recordOfWords
  split
  next h => exact .inl ⟨fun hw => hw.parityMode (parityModeOfCode_eq_none_iff.mp h), _, rfl⟩
  next hparity =>
    split
    next h => exact .inl ⟨fun hw => hw.dkMode (dkModeOfCode_eq_none_iff.mp h), _, rfl⟩
    next hdk =>
      split
      next h => exact .inl ⟨fun hw => hw.bellMode (bellModeOfCode_eq_none_iff.mp h), _, rfl⟩
      next hbell =>
        split
        next h => exact .inl ⟨fun hw => hw.raMode (raModeOfCode_eq_none_iff.mp h), _, rfl⟩
        next hra =>
          split
          next hclear =>
            refine .inr ⟨⟨fun h => ?_, fun h => ?_, fun h => ?_, fun h => ?_, hclear⟩, _, rfl,
              ⟨rfl, rfl, hdk, rfl, rfl, rfl, rfl, rfl⟩⟩
            · cases (parityModeOfCode_eq_none_iff.mpr h).symm.trans hparity
            · cases (dkModeOfCode_eq_none_iff.mpr h).symm.trans hdk
            · cases (bellModeOfCode_eq_none_iff.mpr h).symm.trans hbell
            · cases (raModeOfCode_eq_none_iff.mpr h).symm.trans hra
          next hclear => exact .inl ⟨fun hw => hclear hw.reserved, _, rfl⟩

theorem loadConfig_ok_iff : loadConfig w = .ok c ↔ recordOfWords w = .ok c ∧ failedCheck c = none := by
  unfold loadConfig
  cases recordOfWords w with
  | error check => simp
  | ok r =>
    simp only [Except.ok.injEq]
    constructor
    · intro h
      split at h <;> cases h
      exact ⟨rfl, ‹_›⟩
    · rintro ⟨rfl, hc⟩
      rw [hc]

theorem boot_ok_iff : boot w = .ok s ↔ ∃ c, loadConfig w = .ok c ∧ s = State.powerUp c := by
  unfold boot
  cases loadConfig w <;> simp [eq_comm]

theorem spells_of_loadConfig (h : loadConfig w = .ok c) : Spells w c := by
  obtain ⟨hrecord, -⟩ := loadConfig_ok_iff.mp h
  obtain ⟨-, check, herror⟩ | ⟨-, r, hr, hspells⟩ := recordOfWords_cases w
  · cases herror.symm.trans hrecord
  · cases hr.symm.trans hrecord
    exact hspells

/-- Check 2 always passes: `dkCount` has four bits. -/
theorem failedCheck_iff_of_spells (h : Spells w c) : failedCheck c = none ↔ RecordLegal w := by
  have hcount : dkCountOk c = true := by
    rw [dkCountOk, h.dkCount, decide_eq_true_iff]
    omega
  have hmode : dkModeOk c = true ↔ (field w.cfg0 15 2 = 0#2 ↔ field w.cfg0 11 4 = 0#4) := by
    rw [dkModeOk_iff, ← dkModeOfCode_eq_off_iff, h.dkMode, Option.some_inj, h.dkCount, BitVec.toNat_eq, BitVec.toNat_zero]
  have hbit (i : Nat) (hi : i < 15) : c.dkReservedMask.getLsbD i = w.cfg1.getLsbD (15 + i) := by
    rw [h.dkReservedMask, getLsbD_field, decide_eq_true hi, Bool.true_and]
  have hmask : dkReservedMaskOk c = true ↔
      (∀ i j, i < 15 → j < 15 → w.cfg1.getLsbD (15 + i) = true → w.cfg1.getLsbD (15 + j) = true → i = j) ∧
        (∀ i, i < 15 → w.cfg1.getLsbD (15 + i) = true → i < (field w.cfg0 11 4).toNat) := by
    rw [dkReservedMaskOk_iff, h.dkCount]
    refine and_congr (forall₄_congr fun i j hi hj => ?_) (forall₂_congr fun i hi => ?_)
    · rw [hbit i hi, hbit j hj]
    · rw [hbit i hi]
  have hactions : actionsOk c = true ↔ ∀ d ∈ w.act.take 15, ∃ a, decodeAction d = .ok a := by
    simp only [actionsOk, List.all_eq_true, descriptorOk_iff, h.action]
  rw [failedCheck_eq_none_iff, hmode, hmask, hactions, capacityOk_iff, h.par, h.ab0, h.ab1, h.ab2]
  exact ⟨fun ⟨_, hmode, ⟨hone, hfitted⟩, hactions, hcapacity⟩ => ⟨hmode, hone, hfitted, hactions, hcapacity⟩,
    fun ⟨hmode, hone, hfitted, hactions, hcapacity⟩ => ⟨hcount, hmode, ⟨hone, hfitted⟩, hactions, hcapacity⟩⟩

/-- Packed words boot exactly when their codes are legal and the record they spell passes its checks. -/
theorem exists_boot_ok_iff : (∃ s, boot w = .ok s) ↔ CodesLegal w ∧ RecordLegal w := by
  simp only [boot_ok_iff, loadConfig_ok_iff]
  obtain ⟨hcodes, check, herror⟩ | ⟨hcodes, c, hc, hspells⟩ := recordOfWords_cases w
  · simp [hcodes, herror]
  · simp [hcodes, hc, ← failedCheck_iff_of_spells hspells]

theorem reservedBitsClear_iff :
    reservedBitsClear w = true ↔
      field w.cfg1 30 2 = 0#2 ∧ field w.cfg2 23 9 = 0#9 ∧ (w.cfg0.getLsbD 23 = false → field w.cfg0 24 8 = 0#8) := by
  rw [reservedBitsClear]
  cases w.cfg0.getLsbD 23 <;> simp

/-! ### Refusal under a failing record -/

theorem exec_of_failedCheck {check : ConfigCheck} (hc : failedCheck s.cfg = some check) (i : Instr) :
    exec i s = .refused (.unsupportedConfiguration check) := by
  cases i with
  | actNoop | actBreak | actAnswerback | actEscapeprefix =>
    simp only [exec, execActNoop, execActBreak, execActAnswerback, execActEscapeprefix, admitted_of_failedCheck hc]
  | _ => exact (exec_refused_iff rfl).mpr (.inl ⟨check, hc, rfl⟩)

theorem anomalyOf_of_failedCheck {check : ConfigCheck} (hc : failedCheck s.cfg = some check) (i : Instr) :
    anomalyOf i s = some .unsupportedConfiguration := by
  rw [anomalyOf, exec_of_failedCheck hc]
  rfl

end

/-- Settles O12: R293's bit ranges are the fields the checks read; every operation is admitted before it runs. -/
theorem configurationCheckGuardsOperation : Obligations.ConfigurationCheckGuardsOperation := by
  refine ⟨fun w => ?_, fun i s c hc => ⟨exec_of_failedCheck hc i, by rw [anomalyOf_of_failedCheck hc]; rfl⟩⟩
  have hcode (lo : Nat) : w.cfg0 >>> lo &&& 3#32 = 3#32 ↔ field w.cfg0 lo 2 = 3#2 :=
    shiftRight_and_eq_iff lo (by decide) (by decide) (by decide)
  have hoff : w.cfg0 >>> 15 &&& 3#32 = 0#32 ↔ field w.cfg0 15 2 = 0#2 :=
    shiftRight_and_eq_iff 15 (by decide) (by decide) (by decide)
  have hnone : w.cfg0 >>> 11 &&& 15#32 = 0#32 ↔ field w.cfg0 11 4 = 0#4 :=
    shiftRight_and_eq_iff 11 (by decide) (by decide) (by decide)
  have hcount : (w.cfg0 >>> 11 &&& 15#32).toNat = (field w.cfg0 11 4).toNat := by
    rw [show 15#32 = place (BitVec.allOnes 4) 0 by decide, shiftRight_and_ones, toNat_place_zero (by decide)]
  rw [hcount, Ne, Ne, Ne, Ne, hcode, hcode, hcode, hcode, hoff, hnone, shiftRight_eq_zero_iff 30 2 rfl,
    shiftRight_eq_zero_iff 23 9 rfl, shiftRight_eq_zero_iff 24 8 rfl, ← reservedBitsClear_iff, exists_boot_ok_iff]
  constructor
  · rintro ⟨hcodes, hrecord⟩
    exact ⟨hcodes.parityMode, by omega, ⟨hcodes.dkMode, hrecord.dkMode⟩, ⟨hrecord.oneReserved, hrecord.reservedFitted⟩,
      hcodes.bellMode, hcodes.raMode, hrecord.actions, hcodes.reserved, hrecord.capacity⟩
  · rintro ⟨hparity, -, ⟨hdk, hmode⟩, ⟨hone, hfitted⟩, hbell, hra, hactions, hreserved, hcapacity⟩
    exact ⟨⟨hparity, hdk, hbell, hra, hreserved⟩, hmode, hone, hfitted, hactions, hcapacity⟩

end Sys2Proof.Machine

/-! PROOFS. The reset table: what boots, what RESET leaves, and the invariant at power-up (O14, O16, O50;
70_reset_and_hazards.md R290 to R294). -/

namespace Sys2Proof.Machine

/-! ### The reset levels of the pins (10_state.md R28) -/

theorem bellResetLevel_eq (c : Config) :
    bellResetLevel c = match c.bellMode with | .none => .Z | .activeLow => .H | .activeHigh => .L := by
  cases hm : c.bellMode <;> simp [bellResetLevel, bellInactive, hm]

theorem raResetLevel_eq (c : Config) :
    raResetLevel c = if c.raMode = .none then .Z else if c.raPolarity = .activeHigh then .L else .H := by
  rw [← raInactive_eq]
  cases hm : c.raMode <;> simp [raResetLevel, hm]

/-! ### Power-up -/

/-- R291, R292: the empty queue, times of 0 or `time0`, empty masks and the reset levels fit every legal configuration. -/
theorem powerUp_inv {c : Config} (hc : failedCheck c = none) (hfits : timesFit c = true) : Inv (State.powerUp c) where
  cfg_ok := hc
  cfg_fits := hfits
  in_lt := Nat.zero_lt_of_lt (two_le_slots hc)
  out_lt := Nat.zero_lt_of_lt (two_le_slots hc)
  slot_wf := rfl
  slot_fits := rfl
  queue_written := by
    have hcount : queueCount (State.powerUp c) = 0 := by simp [queueCount, State.powerUp]
    simp [contents, hcount]
  time_lt := (timesFit_iff.mp hfits).1
  start_lt := timeModulus_pos c
  send_lt := timeModulus_pos c
  prev_fits := keysInMask_zero c
  candidate_fits := keysInMask_zero c
  db_unused := fun _ => rfl
  db_stable := fun _ _ _ => rfl
  hs_unused := fun _ => rfl
  bell_pin := (bellPinFits_of_ne (by simp [State.powerUp])).mpr rfl
  ra_pin := raPinFits_resetLevel rfl (by simp [State.powerUp])
  no_fault := rfl

/-- Settles O16: the baseline configuration of `State.reset` is a legal one. -/
theorem powerUpHasTheInvariant : Obligations.PowerUpHasTheInvariant :=
  ⟨fun _ hc hfits => powerUp_inv hc hfits, powerUp_inv (by decide) (by decide)⟩

/-- Settles O14: boot answers the power-up state of the record that the words spell. -/
theorem bootGivesTheResetTable : Obligations.BootGivesTheResetTable := by
  intro w s hboot
  obtain ⟨c, hload, rfl⟩ := boot_ok_iff.mp hboot
  have htime : c.par.time0 = w.par.time0 := congrArg Params.time0 (spells_of_loadConfig hload).par
  exact ⟨hload, fun _ => rfl, rfl, rfl, htime, rfl, rfl, rfl, bellResetLevel_eq c, raResetLevel_eq c, rfl, rfl, rfl, rfl, rfl,
    rfl⟩

/-! ### RESET -/

/-- RESET is admitted in every phase (30_encoding.md R92). -/
theorem execReset_eq {s : State} (hc : failedCheck s.cfg = none) :
    execReset s = .next { reinitialize s with outv := s.outv ++ resetEvents s } :=
  admitted_eq _ hc rfl

theorem resetEvents_eq (s : State) :
    resetEvents s =
      (if bellResetLevel s.cfg = s.bellPin then [] else [.bell (bellResetLevel s.cfg)]) ++
        (if raResetLevel s.cfg = s.raPin then [] else [.ra (raResetLevel s.cfg)]) := by
  simp only [resetEvents, ne_eq, ite_not]

/-- Settles O50: the reset table of the configuration the block runs under, and the events of the pins that change. -/
theorem resetReinitializesTheBlock : Obligations.ResetReinitializesTheBlock := by
  intro s hc
  refine ⟨bellResetLevel s.cfg, raResetLevel s.cfg, bellResetLevel_eq s.cfg, raResetLevel_eq s.cfg, ?_⟩
  show execReset s = _
  rw [execReset_eq hc, resetEvents_eq, List.append_assoc]
  rfl

end Sys2Proof.Machine
